-- ==== Sys2Proof/Word.lean ====
section
/-! DEFINITION. The word types of the register interface (R4, R5, R63). -/

namespace Sys2Proof

/-- A register, and the bus data: `W = 32` bits (R4). -/
abbrev Word := BitVec 32

/-- One raw text byte, an element of `IBUF` (R29). -/
abbrev Byte := BitVec 8

/-- A byte address on the register interface, 0x00 to 0xFF (R63). -/
abbrev Addr := BitVec 8

/-- A letter: its 0-based index in A..Z, 0 to 25 (R5). -/
abbrev Letter := Fin 26

end Sys2Proof
end

