-- ==== Sys2Proof/Config.lean ====
section
/-! DEFINITION. What is fixed for the life of an engine: the constants of R3, the open capacities of R4, and the
values the spec leaves without a result. -/

namespace Sys2Proof

namespace Config

/-- `FILLER` (R3): the padding and separator letter X, index 23. -/
abbrev filler : Letter := 23

/-- `LJ` (R3): the letter J. -/
abbrev letterJ : Letter := 9

/-- `LI` (R3): the letter I. -/
abbrev letterI : Letter := 8

/-- What a pop of `TXOUT` returns when `CTRL.OFMT` is 3. R28 and R170 say that value cannot be stored, so they
give the read no result; no run from reset reaches it. A free value (log entry 5). -/
opaque reservedFormat : Letter → Word

/-- What `ILEN` returns for a count of 2^32 or more. R4 puts no upper bound on `ICAP` and `LCAP`, and R31 gives no
word for such a count. A free value (log entry 18). -/
opaque wideIlen : Nat → Word

/-- Bits 31:1 of what `LLEN` returns for a count of 2^32 or more; R31 fixes bit 0. A free value (log entry 18). -/
opaque wideLlen : Nat → BitVec 31

/-- What `DGCNT` returns for a count of 2^32 or more. A free value (log entry 18). -/
opaque wideDgcnt : Nat → Word

end Config

/-- The two open parameters of R4: the capacity of `IBUF` in bytes and of `LBUF` in letters. -/
structure Capacities where
  icap : Nat
  lcap : Nat
  deriving DecidableEq, Repr

/-- The values R4 suggests: `ICAP = 256`, `LCAP = 2*ICAP`. -/
def Capacities.suggested : Capacities := ⟨256, 512⟩

end Sys2Proof
end

