-- ==== Sys2Proof/Syntax.lean ====
section
/-! DEFINITION. What the host can ask of the engine: the 16 rows of the opcode table, the register names of R21,
the two bus transactions of R62, and the events of a run. -/

namespace Sys2Proof

/-- The rows of the opcode table: the 13 command words of R92 and the three data ports of R98. -/
inductive Instr where
  /-- `NOP`, R190 -/
  | nop
  /-- `GCD`, R112 -/
  | gcd
  /-- `MODINV`, R116 -/
  | modinv
  /-- `MDET`, R132 -/
  | mdet
  /-- `MINV`, R135 -/
  | minv
  /-- `TCLR`, R152 -/
  | tclr
  /-- `CLEAN`, R153 (`MJ = 0`) -/
  | clean
  /-- `CLEAN.J`, R154 (`MJ = 1`) -/
  | cleanJ
  /-- `PADE`, R156 -/
  | pade
  /-- `PAIRX`, R160 -/
  | pairx
  /-- `STRIPX`, R163 -/
  | stripx
  /-- `UNSEP`, R164 -/
  | unsep
  /-- `CLRF`, R191 -/
  | clrf
  /-- a write to `TXIN` with its 32 data bits, R151 -/
  | txin (data : Word)
  /-- a read of `TXOUT`, R170 -/
  | txout
  /-- a read of `DGOUT`, R171 -/
  | dgout
  deriving DecidableEq, Repr

/-- The storage registers of R21, in address order. -/
inductive Reg where
  | status | ctrl | opa | opb | res | ma | mb | mc | md | det | dinv | inva | invb | invc | invd
  deriving DecidableEq, Repr

/-- The 22 mapped words of R21: the storage registers, and the seven addresses without storage. -/
inductive Name where
  | cmd
  | reg (r : Reg)
  | txin | txout | dgout | ilen | llen | dgcnt
  deriving DecidableEq, Repr

/-- A transaction of R62: `MemWrite(addr, 4, data)` or `MemRead(addr, 4)`. A read carries no data (`wdata` is
"ignored for a read"). -/
inductive Access where
  | write (addr : Addr) (data : Word)
  | read (addr : Addr)
  deriving DecidableEq, Repr

/-- What can happen at the register interface. -/
inductive Event where
  /-- the host's transaction occurs (R62) -/
  | access (a : Access)
  /-- a clock edge with `rst = 1` (R250) -/
  | reset
  /-- a clock edge with `rst = 0` at which no transaction occurs (R62) -/
  | idle
  /-- the host changed a stalled request, which R62 puts outside the spec (log entry 7) -/
  | holdBroken
  deriving DecidableEq, Repr

end Sys2Proof
end

