-- ==== Sys2Proof/WellFormed.lean ====
section
/-! DEFINITION. The checks on terms a type cannot make. -/

namespace Sys2Proof

/-- Every instruction term is legal: no command carries an operand (R94), and a write to `TXIN` "has no illegal
value" (R68). -/
def Instr.wf : Instr → Bool
  | .nop | .gcd | .modinv | .mdet | .minv | .tclr | .clean | .cleanJ | .pade | .pairx | .stripx | .unsep
  | .clrf | .txout | .dgout => true
  | .txin _ => true

/-- The constraints of R4 on the open parameters: `ICAP >= 1`; `LCAP` even; `LCAP >= 2*ICAP`. -/
def Capacities.wf (c : Capacities) : Bool :=
  decide (1 ≤ c.icap) && (decide (c.lcap % 2 = 0) && decide (2 * c.icap ≤ c.lcap))

end Sys2Proof
end

