-- ==== Sys2Proof/Decode.lean ====
section
/-! DEFINITION. The address map (R21), the command word (R90 to R92, R96), the decoder of transactions into
instructions, and the encoder. -/

namespace Sys2Proof

/-! ## The address map -/

/-- The addresses of R21's first table. -/
def Reg.addr : Reg → Addr
  | .status => 0x04 | .ctrl => 0x08 | .opa => 0x0C | .opb => 0x10 | .res => 0x14
  | .ma => 0x18 | .mb => 0x1C | .mc => 0x20 | .md => 0x24
  | .det => 0x28 | .dinv => 0x2C | .inva => 0x30 | .invb => 0x34 | .invc => 0x38 | .invd => 0x3C

/-- Every storage register. -/
def Reg.all : List Reg :=
  [.status, .ctrl, .opa, .opb, .res, .ma, .mb, .mc, .md, .det, .dinv, .inva, .invb, .invc, .invd]

/-- `addr(name)` of R100: the addresses of both tables of R21. -/
def Name.addr : Name → Addr
  | .cmd => 0x00 | .reg r => r.addr
  | .txin => 0x40 | .txout => 0x44 | .dgout => 0x48 | .ilen => 0x4C | .llen => 0x50 | .dgcnt => 0x54

/-- Every mapped word. -/
def Name.all : List Name :=
  .cmd :: (Reg.all.map .reg ++ [.txin, .txout, .dgout, .ilen, .llen, .dgcnt])

/-- Which word an address reaches; none for an address R21 leaves unmapped. -/
def Name.ofAddr (a : Addr) : Option Name :=
  Name.all.find? fun n => n.addr == a

/-- May the host store into the register? The RW rows of R21's first table. -/
def Reg.writable : Reg → Bool
  | .ctrl | .opa | .opb | .ma | .mb | .mc | .md => true
  | .status | .res | .det | .dinv | .inva | .invb | .invc | .invd => false

/-- May the host write the word? The RW and WO rows of R21. -/
def Name.writable : Name → Bool
  | .cmd | .txin => true
  | .reg r => r.writable
  | .txout | .dgout | .ilen | .llen | .dgcnt => false

/-- May the host read the word? The RW and RO rows of R21. -/
def Name.readable : Name → Bool
  | .cmd | .txin => false
  | .reg _ | .txout | .dgout | .ilen | .llen | .dgcnt => true

/-- The byte address of a transaction. -/
def Access.addr : Access → Addr
  | .write a _ => a
  | .read a => a

/-- The direction check of R67 on a mapped word. -/
def Access.allowed : Access → Name → Bool
  | .write _ _, n => n.writable
  | .read _, n => n.readable

/-- The outcome of the checks (1) to (3) of R69. -/
inductive AccessCheck where
  /-- `addr[1:0]` is not 0 (R64) -/
  | misaligned
  /-- no word stands at the address (R66) -/
  | unmapped
  /-- a write to an RO word or a read of a WO word (R67) -/
  | wrongDirection
  /-- the transaction reaches this word -/
  | target (n : Name)
  deriving DecidableEq, Repr

/-- The checks (1) to (3) of R69, in its order: alignment, mapping, direction. -/
def Access.check (a : Access) : AccessCheck :=
  if a.addr.extractLsb' 0 2 ≠ 0 then .misaligned
  else match Name.ofAddr a.addr with
    | none => .unmapped
    | some n => if a.allowed n then .target n else .wrongDirection

/-! ## The command word -/

/-- Why a transaction is not an instruction of the table. -/
inductive Reject where
  /-- a word written to `CMD` with a nonzero `RSV` field (R96) -/
  | reservedField
  /-- a word written to `CMD` with an option bit its opcode does not have (R96) -/
  | optionBits
  /-- a word written to `CMD` with an unassigned `OP` (R96) -/
  | unassignedOpcode
  /-- neither a write to `CMD` nor one of the three ports of R98: a plain register access or a bad access -/
  | notAnInstruction
  deriving DecidableEq, Repr

/-- What the decoder answers. -/
inductive Decoded where
  | instr (i : Instr)
  | reject (why : Reject)
  deriving DecidableEq, Repr

/-- `OP`, bits 7:0 of a command word (R90). -/
def opField (w : Word) : BitVec 8 := w.extractLsb' 0 8

/-- `OPT`, bits 15:8 of a command word (R90). -/
def optField (w : Word) : BitVec 8 := w.extractLsb' 8 8

/-- `RSV`, bits 31:16 of a command word (R90). -/
def rsvField (w : Word) : BitVec 16 := w.extractLsb' 16 16

/-- The opcodes that take no option (R91's last case list). -/
def opcodeTable : List (BitVec 8 × Instr) :=
  [(0x00, .nop), (0x01, .gcd), (0x02, .modinv), (0x03, .mdet), (0x04, .minv), (0x10, .tclr), (0x12, .pade),
   (0x13, .pairx), (0x14, .stripx), (0x15, .unsep), (0x1F, .clrf)]

/-- `decode(w)` of R91. -/
def decodeCommand (w : Word) : Decoded :=
  if rsvField w ≠ 0 then .reject .reservedField
  else if opField w = 0x11 then
    if (optField w).extractLsb' 1 7 ≠ 0 then .reject .optionBits
    else .instr (if (optField w).getLsbD 0 then .cleanJ else .clean)
  else if optField w ≠ 0 then .reject .optionBits
  else match opcodeTable.lookup (opField w) with
    | some i => .instr i
    | none => .reject .unassignedOpcode

/-- A transaction as an instruction: a command (R90), or one of the three ports by direction and address (R98). -/
def decode : Access → Decoded
  | .write a w =>
    if a = Name.cmd.addr then decodeCommand w
    else if a = Name.txin.addr then .instr (.txin w)
    else .reject .notAnInstruction
  | .read a =>
    if a = Name.txout.addr then .instr .txout
    else if a = Name.dgout.addr then .instr .dgout
    else .reject .notAnInstruction

/-! ## The encoder -/

/-- The command word with `RSV = 0` (R90). -/
def commandWord (opt op : BitVec 8) : Word := (0#16 ++ opt) ++ op

/-- The transaction that issues an instruction, from the columns `OP` and `OPT` of R92 and from R98. -/
def encode : Instr → Access
  | .nop => .write Name.cmd.addr (commandWord 0x00 0x00)
  | .gcd => .write Name.cmd.addr (commandWord 0x00 0x01)
  | .modinv => .write Name.cmd.addr (commandWord 0x00 0x02)
  | .mdet => .write Name.cmd.addr (commandWord 0x00 0x03)
  | .minv => .write Name.cmd.addr (commandWord 0x00 0x04)
  | .tclr => .write Name.cmd.addr (commandWord 0x00 0x10)
  | .clean => .write Name.cmd.addr (commandWord 0x00 0x11)
  | .cleanJ => .write Name.cmd.addr (commandWord 0x01 0x11)
  | .pade => .write Name.cmd.addr (commandWord 0x00 0x12)
  | .pairx => .write Name.cmd.addr (commandWord 0x00 0x13)
  | .stripx => .write Name.cmd.addr (commandWord 0x00 0x14)
  | .unsep => .write Name.cmd.addr (commandWord 0x00 0x15)
  | .clrf => .write Name.cmd.addr (commandWord 0x00 0x1F)
  | .txin w => .write Name.txin.addr w
  | .txout => .read Name.txout.addr
  | .dgout => .read Name.dgout.addr

/-! ## The opcode table's numbering (log entry 12) -/

/-- The transaction whose bits, numbered as the opcode table numbers them, are `w`. A row of format `C` has 32
bits, the word written to `CMD`; a row of format `BUS` has the 9 bits of R98, wr then addr[7:0], in two bytes, and its
operand word is zeros. -/
def tableAccess (nbits w : Nat) : Option Access :=
  if nbits = 32 then some (.write Name.cmd.addr (BitVec.ofNat 32 w))
  else if nbits ≤ 16 ∧ w < 512 then
    some (if 256 ≤ w then .write (BitVec.ofNat 8 w) 0 else .read (BitVec.ofNat 8 w))
  else none

/-- The instruction the decoder reads from the opcode table's bits. -/
def decodeTableWord (nbits w : Nat) : Option Instr :=
  match tableAccess nbits w with
  | none => none
  | some a =>
    match decode a with
    | .instr i => some i
    | .reject _ => none

end Sys2Proof
end

