-- ==== Sys2Proof/Machine/State.lean ====
section
/-! DEFINITION. The state of the engine (R21), and the two lists by which one step function carries a run (R258). -/

namespace Sys2Proof.Machine

/-- Why the machine stops. There is no constructor: "the engine does not lock up" (R225), and every transaction
completes (R61). What the spec calls a fault is a sticky bit of `STATUS` and a next state (R222). -/
inductive Fault where
  deriving DecidableEq, Repr

/-- Why an event has no meaning. -/
inductive Refusal where
  /-- Raised by an arm of `exec` whose instruction has no meaning yet; no arm is left so. Safe. -/
  | notModelled (mnemonic : String)
  /-- Raised by `step` on `Event.holdBroken`: the host changed `sel`, `wr`, `addr` or `wdata` while its request was
  stalled, and "no rule says what happens" (R62). Safe: the model stops where the engine does something unknown. -/
  | holdBroken
  deriving DecidableEq, Repr

/-- The architectural state of R21, the configuration it runs under, and the run's input and output. -/
structure State where
  /-- 0x04, result code and sticky fault bits (R27) -/
  status : Word
  /-- 0x08, output format (R28) -/
  ctrl : Word
  /-- 0x0C, scalar operand a (R23) -/
  opa : Word
  /-- 0x10, scalar operand b (R23) -/
  opb : Word
  /-- 0x14, scalar result (R25) -/
  res : Word
  /-- 0x18, matrix entry a (R23) -/
  ma : Word
  /-- 0x1C, matrix entry b (R23) -/
  mb : Word
  /-- 0x20, matrix entry c (R23) -/
  mc : Word
  /-- 0x24, matrix entry d (R23) -/
  md : Word
  /-- 0x28, determinant residue of the last `MINV` (R26) -/
  det : Word
  /-- 0x2C, inverse of the determinant residue, or 0 (R26) -/
  dinv : Word
  /-- 0x30, inverse matrix, row 0 column 0 (R26) -/
  inva : Word
  /-- 0x34, inverse matrix, row 0 column 1 (R26) -/
  invb : Word
  /-- 0x38, inverse matrix, row 1 column 0 (R26) -/
  invc : Word
  /-- 0x3C, inverse matrix, row 1 column 1 (R26) -/
  invd : Word
  /-- the raw bytes, oldest first (R29) -/
  ibuf : List Byte
  /-- the letters, first letter first (R30) -/
  lbuf : List Letter
  /-- `ICAP` and `LCAP` (R4): configuration, no step changes it (log entry 3) -/
  caps : Capacities
  /-- the events the host will cause, next first: the rest of the run (R258, log entry 1) -/
  pending : List Event
  /-- the values the run's reads returned, in order (R258, log entry 2) -/
  returned : List Word
  deriving DecidableEq, Repr

/-- The reset state of R250 for an engine of given capacities. -/
def State.resetWith (c : Capacities) : State :=
  { status := 0, ctrl := 0, opa := 0, opb := 0, res := 0, ma := 0, mb := 0, mc := 0, md := 0, det := 0, dinv := 0,
    inva := 0, invb := 0, invc := 0, invd := 0, ibuf := [], lbuf := [], caps := c, pending := [], returned := [] }

/-- The reset state with the suggested capacities of R4 (log entry 3). -/
def State.reset : State := State.resetWith Capacities.suggested

end Sys2Proof.Machine
end

