-- ==== Sys2Proof/Machine/Flags.lean ====
section
/-! DEFINITION. The fields of `STATUS` (R27) and how they are computed. -/

namespace Sys2Proof.Machine

/-- The result codes of R27. -/
inductive ResultCode where
  | ok | noinv | nonunit | illcmd | lovf
  deriving DecidableEq, Repr

/-- The values of R27's second table. -/
def ResultCode.code : ResultCode → BitVec 4
  | .ok => 0 | .noinv => 1 | .nonunit => 2 | .illcmd => 3 | .lovf => 4

/-- The sticky fault bits of R27. -/
inductive FaultBit where
  | illcmd | acc | iovf | ounf | lovf
  deriving DecidableEq, Repr

/-- The bit of `STATUS` each fault sets (R27). -/
def FaultBit.bit : FaultBit → Nat
  | .illcmd => 8 | .acc => 9 | .iovf => 10 | .ounf => 11 | .lovf => 12

/-- `STATUS.RC`, bits 3:0. -/
def rcField (status : Word) : BitVec 4 := status.extractLsb' 0 4

/-- Is the sticky bit set? -/
def faultField (f : FaultBit) (status : Word) : Bool := status.getLsbD f.bit

/-- The bits R27 names: 3:0 and 12:8. Every other bit reads 0. -/
def statusNamed : Word := 0x00001F0F

/-- `STATUS.RC <- rc`. -/
def setResultCode (rc : ResultCode) (status : Word) : Word :=
  (status &&& 0xFFFFFFF0#32) ||| rc.code.setWidth 32

/-- `STATUS.F_x <- 1`. -/
def setFaultBit (f : FaultBit) (status : Word) : Word := status ||| BitVec.twoPow 32 f.bit

/-- `STATUS` bits 12:8 cleared, all five at once (R191). -/
def clearFaultBits (status : Word) : Word := status &&& 0xFFFFE0FF#32

end Sys2Proof.Machine
end

