-- ==== Sys2Proof/Machine/Operands.lean ====
section
/-! DEFINITION. How a command reads its operands (R36, R94) and how a port lays out its data (R70). -/

namespace Sys2Proof.Machine

/-- `sint32(w)` (R8): the word as two's complement. -/
def sint32 (w : Word) : Int := w.toInt

/-- `v mod 26` (R7): the floored remainder, 0 to 25. -/
def residue (v : Int) : Int := v % 26

/-- The word of a result that fits 32 bits unsigned. -/
def wordOf (v : Int) : Word := BitVec.ofInt 32 v

/-- The reduced matrix operand of R130. -/
structure Matrix where
  a : Int
  b : Int
  c : Int
  d : Int
  deriving DecidableEq, Repr

/-- `a', b', c', d'` of R130: the entries `MA` to `MD`, each reduced mod 26. -/
def matrixOperand (s : State) : Matrix :=
  { a := residue (sint32 s.ma), b := residue (sint32 s.mb), c := residue (sint32 s.mc), d := residue (sint32 s.md) }

/-- The byte of a write to `TXIN`, `wdata[7:0]` (R151). -/
def txinByte (data : Word) : Byte := data.extractLsb' 0 8

/-- The classes of R150: a letter's index, or none for a byte that is not a letter. -/
def letterOf (b : Byte) : Option Letter :=
  if h : 0x41 ≤ b.toNat ∧ b.toNat ≤ 0x5A then some ⟨b.toNat - 0x41, by omega⟩
  else if h : 0x61 ≤ b.toNat ∧ b.toNat ≤ 0x7A then some ⟨b.toNat - 0x61, by omega⟩
  else none

/-- The `MJ` option (R154): J becomes I. -/
def mergeJ (mj : Bool) (l : Letter) : Letter :=
  if mj ∧ l = Config.letterJ then Config.letterI else l

/-- `CTRL.OFMT`, bits 1:0 (R28). -/
def outputFormat (ctrl : Word) : BitVec 2 := ctrl.extractLsb' 0 2

/-- The value a pop of `TXOUT` returns for a letter (R170). -/
def formatLetter (ofmt : BitVec 2) (l : Letter) : Word :=
  if ofmt = 0 then BitVec.ofNat 32 l.val
  else if ofmt = 1 then BitVec.ofNat 32 (0x41 + l.val)
  else if ofmt = 2 then BitVec.ofNat 32 (0x61 + l.val)
  else Config.reservedFormat l

/-- The value a pop of `DGOUT` returns for a pair (R171). -/
def formatDigraph (l1 l2 : Letter) : Word := (BitVec.ofNat 32 l1.val <<< 8) ||| BitVec.ofNat 32 l2.val

/-- The word of a count (R31); `wide` answers for a count that needs more than 32 bits (log entry 18). -/
def countWord (wide : Nat → Word) (n : Nat) : Word := if n < 2 ^ 32 then BitVec.ofNat 32 n else wide n

/-- `LLEN` for a count that needs more than 32 bits: `LLEN[0]` is 1 exactly when the count is odd (R31), and the bits
above it are free (log entry 18). -/
def wideLetterCount (n : Nat) : Word := Config.wideLlen n ++ BitVec.ofNat 1 n

/-- The value an empty pop returns (R170, R171). -/
def emptyPop : Word := 0x80000000

end Sys2Proof.Machine
end

