-- ==== Sys2Proof/Machine/Ops.lean ====
section
/-! DEFINITION. The operations the meanings share: the registers, the buffers' views, the end of a command, a
fault, a bad access, and the plain register accesses of `20_memory.md`. -/

namespace Sys2Proof.Machine

/-- The word a storage register holds. -/
def State.get (s : State) : Reg → Word
  | .status => s.status | .ctrl => s.ctrl | .opa => s.opa | .opb => s.opb | .res => s.res
  | .ma => s.ma | .mb => s.mb | .mc => s.mc | .md => s.md
  | .det => s.det | .dinv => s.dinv | .inva => s.inva | .invb => s.invb | .invc => s.invc | .invd => s.invd

/-- `x[r] <- w`. -/
def State.set (s : State) (r : Reg) (w : Word) : State :=
  match r with
  | .status => { s with status := w } | .ctrl => { s with ctrl := w }
  | .opa => { s with opa := w } | .opb => { s with opb := w } | .res => { s with res := w }
  | .ma => { s with ma := w } | .mb => { s with mb := w } | .mc => { s with mc := w } | .md => { s with md := w }
  | .det => { s with det := w } | .dinv => { s with dinv := w }
  | .inva => { s with inva := w } | .invb => { s with invb := w }
  | .invc => { s with invc := w } | .invd => { s with invd := w }

/-- `IBUF <- bs`. -/
def State.setIbuf (s : State) (bs : List Byte) : State := { s with ibuf := bs }

/-- `LBUF <- ls`. -/
def State.setLbuf (s : State) (ls : List Letter) : State := { s with lbuf := ls }

/-- The host's next events. -/
def State.setPending (s : State) (es : List Event) : State := { s with pending := es }

/-- A read transaction returns `w` (R62, R258). -/
def State.deliver (s : State) (w : Word) : State := { s with returned := s.returned ++ [w] }

/-- `return RC_x` (R221): a command ends and writes its result code, nothing else. -/
def State.finish (s : State) (rc : ResultCode) : State := s.set .status (setResultCode rc s.status)

/-- `raise Fault(F_x)` (R222, R225): the whole of this engine's exception entry. The sticky bit is set; nothing is
saved, nothing is masked, control goes nowhere. -/
def State.raise (s : State) (f : FaultBit) : State := s.set .status (setFaultBit f s.status)

/-- The way back from a fault (R227): there is no return, only all five bits cleared at once. -/
def State.clearFaults (s : State) : State := s.set .status (clearFaultBits s.status)

/-- A clock edge with `rst = 1` (R250): every register and buffer takes its reset value. The capacities are
configuration (R22), and the events to come and the values returned so far are the host's (log entry 10). -/
def State.resetEdge (s : State) : State :=
  { State.resetWith s.caps with pending := s.pending, returned := s.returned }

/-- An illegal word written to `CMD` (R96): nothing is executed; `RC_ILLCMD` and `F_ILLCMD`. -/
def State.illegalCommand (s : State) : State := (s.raise .illcmd).finish .illcmd

/-- A bad access (R64, R66, R67, R223): `F_ACC`, and a read returns 0x00000000. -/
def badAccess (a : Access) (s : State) : State :=
  match a with
  | .write _ _ => s.raise .acc
  | .read _ => (s.raise .acc).deliver 0

/-- The value legality check of R68 on a write to a storage register: only `CTRL` has illegal values. -/
def legalValue (r : Reg) (w : Word) : Bool :=
  match r with
  | .ctrl => decide (w.extractLsb' 2 30 = 0 ∧ outputFormat w ≠ 3)
  | _ => true

/-- A write that reaches a writable storage register: the word is stored whole, or refused with `F_ACC` (R68). -/
def storeRegister (r : Reg) (w : Word) (s : State) : State :=
  if legalValue r w then s.set r w else s.raise .acc

/-- `ILEN` (R31). -/
def ilenView (s : State) : Word := countWord Config.wideIlen s.ibuf.length

/-- `LLEN` (R31). -/
def llenView (s : State) : Word := countWord wideLetterCount s.lbuf.length

/-- `DGCNT` (R31): how many digraphs of R157 `LBUF` holds. -/
def dgcntView (s : State) : Word := countWord Config.wideDgcnt (s.lbuf.length / 2)

/-- What a transaction that passed the checks (1) to (3) of R69 does, where it is no instruction of the table. The
ports `CMD`, `TXIN`, `TXOUT`, `DGOUT` have their meanings in `exec`; a transaction that reaches one is decoded there. -/
def plainAccess (n : Name) (a : Access) (s : State) : State :=
  match n, a with
  | .reg r, .write _ w => storeRegister r w s
  | .reg r, .read _ => s.deliver (s.get r)
  | .ilen, .read _ => s.deliver (ilenView s)
  | .llen, .read _ => s.deliver (llenView s)
  | .dgcnt, .read _ => s.deliver (dgcntView s)
  | _, _ => badAccess a s

/-- A transaction the decoder rejects: an illegal command, a plain access, or a bad access (R69, R96). -/
def rejected (why : Reject) (a : Access) (s : State) : State :=
  match why with
  | .reservedField | .optionBits | .unassignedOpcode => s.illegalCommand
  | .notAnInstruction =>
    match a.check with
    | .misaligned | .unmapped | .wrongDirection => badAccess a s
    | .target n => plainAccess n a s

end Sys2Proof.Machine
end

