-- ==== Sys2Proof/Machine/Arithmetic.lean ====
section
/-! DEFINITION. Unit MA (`40_modular_arithmetic.md`): `GCD` and `MODINV`. -/

namespace Sys2Proof.Machine

/-- The loop of R111, at most `fuel` times round. -/
def euclid : Nat → Nat → Nat → Nat
  | 0, u, _ => u
  | fuel + 1, u, v => if v = 0 then u else euclid fuel v (u % v)

/-- `gcd(a, b)` of R111: the Euclidean loop on the absolute values. `v` strictly decreases, so `|b| + 1` rounds are
enough (log entry 14). -/
def gcdInt (a b : Int) : Nat := euclid (b.natAbs + 1) a.natAbs b.natAbs

/-- The search of R116: the first `i` in 1..25 with `(r * i) mod 26 = 1`. -/
def modInverse (r : Int) : Option Nat :=
  (List.range' 1 25).find? fun i => (r * i) % 26 == 1

/-- `GCD` (R112). -/
def execGcd (s : State) : Host.Outcome State Fault Refusal :=
  .next ((s.set .res (wordOf (gcdInt (sint32 s.opa) (sint32 s.opb)))).finish .ok)

/-- `MODINV` (R116): the modulus is the constant 26, and `OPB` is not read (R115). -/
def execModinv (s : State) : Host.Outcome State Fault Refusal :=
  match modInverse (residue (sint32 s.opa)) with
  | some i => .next ((s.set .res (wordOf i)).finish .ok)
  | none => .next ((s.set .res 0).finish .noinv)

end Sys2Proof.Machine
end

