-- ==== Sys2Proof/Machine/Control.lean ====
section
/-! DEFINITION. The control group (`43_control.md`): `NOP` and `CLRF`. -/

namespace Sys2Proof.Machine

/-- `NOP` (R190). -/
def execNop (s : State) : Host.Outcome State Fault Refusal := .next (s.finish .ok)

/-- `CLRF` (R191). -/
def execClrf (s : State) : Host.Outcome State Fault Refusal := .next (s.clearFaults.finish .ok)

end Sys2Proof.Machine
end

