-- ==== Sys2Proof/Machine/Matrix.lean ====
section
/-! DEFINITION. Unit MX (`41_matrix_inverse.md`): `MDET` and `MINV`. -/

namespace Sys2Proof.Machine

/-- `det26(M)` of R131, on the reduced entries. -/
def det26 (m : Matrix) : Int := residue (m.a * m.d - m.b * m.c)

/-- `MDET` (R132). -/
def execMdet (s : State) : Host.Outcome State Fault Refusal :=
  .next ((s.set .res (wordOf (det26 (matrixOperand s)))).finish .ok)

/-- The six registers of R26, written together. -/
def State.setInverse (s : State) (det dinv : Int) (n : Matrix) : State :=
  (((((s.set .det (wordOf det)).set .dinv (wordOf dinv)).set .inva (wordOf n.a)).set .invb (wordOf n.b)).set
    .invc (wordOf n.c)).set .invd (wordOf n.d)

/-- `dinv * adj(M) mod 26` (R131, R135). -/
def scaledAdjugate (dinv : Int) (m : Matrix) : Matrix :=
  { a := residue (dinv * m.d), b := residue (dinv * -m.b), c := residue (dinv * -m.c), d := residue (dinv * m.a) }

/-- `MINV` (R135). Where the determinant is a unit `modInverse` finds its inverse (R117), so the default 0 is never
taken. -/
def execMinv (s : State) : Host.Outcome State Fault Refusal :=
  let m := matrixOperand s
  let det := det26 m
  if gcdInt det 26 ≠ 1 then .next ((s.setInverse det 0 ⟨0, 0, 0, 0⟩).finish .nonunit)
  else
    let dinv : Int := ((modInverse det).getD 0 : Nat)
    .next ((s.setInverse det dinv (scaledAdjugate dinv m)).finish .ok)

end Sys2Proof.Machine
end

