-- ==== Sys2Proof/Machine/Text.lean ====
section
/-! DEFINITION. Unit TX (`42_text_pipeline.md`): the text commands and the three data ports. -/

namespace Sys2Proof.Machine

/-! ## The text functions -/

/-- `clean(text)` of R153, with the merge of R154 where `mj` holds. -/
def cleanText (mj : Bool) (bs : List Byte) : List Letter :=
  bs.filterMap fun b => (letterOf b).map (mergeJ mj)

/-- `padToEven(letters)` of R156. -/
def padToEven (t : List Letter) : List Letter :=
  if t.length % 2 = 1 then t ++ [Config.filler] else t

/-- The scan of R160: a pair of two different letters is taken whole; a letter whose partner would repeat it, or
that has none, is paired with the filler. -/
def pairLetters : List Letter → List Letter
  | [] => []
  | [a] => [a, Config.filler]
  | a :: b :: rest =>
    if b = a then a :: Config.filler :: pairLetters (b :: rest)
    else a :: b :: pairLetters rest

/-- One trailing filler stripped, if present (R163). -/
def stripFiller (t : List Letter) : List Letter :=
  if t.getLast? = some Config.filler then t.dropLast else t

/-- Step 2 of R164 at one letter: an X whose two neighbours are the same letter, and that letter is not X. -/
def isSeparator (prev : Option Letter) (l : Letter) (next : Option Letter) : Bool :=
  l == Config.filler && (prev.isSome && (prev == next && prev != some Config.filler))

/-- Step 2 of R164 from left to right. `prev` is the letter to the left in the text before any removal. -/
def dropSeparators (prev : Option Letter) : List Letter → List Letter
  | [] => []
  | l :: rest =>
    if isSeparator prev l rest.head? then dropSeparators (some l) rest
    else l :: dropSeparators (some l) rest

/-- The Playfair filler removal of R164, steps 1 and 2. -/
def removeFillers (t : List Letter) : List Letter := dropSeparators none (stripFiller t)

/-! ## The commands -/

/-- `TCLR` (R152). -/
def execTclr (s : State) : Host.Outcome State Fault Refusal :=
  .next (((s.setIbuf []).setLbuf []).finish .ok)

/-- What `CLEAN` and `CLEAN.J` share (R153). -/
def State.cleaned (s : State) (mj : Bool) : State :=
  ((s.setLbuf (cleanText mj s.ibuf)).setIbuf []).finish .ok

/-- `CLEAN` (R153). -/
def execClean (s : State) : Host.Outcome State Fault Refusal := .next (s.cleaned false)

/-- `CLEAN.J` (R154). -/
def execCleanJ (s : State) : Host.Outcome State Fault Refusal := .next (s.cleaned true)

/-- `PADE` (R156). -/
def execPade (s : State) : Host.Outcome State Fault Refusal :=
  .next ((s.setLbuf (padToEven s.lbuf)).finish .ok)

/-- `PAIRX` (R160): an output longer than `LCAP` leaves `LBUF` as it was. -/
def execPairx (s : State) : Host.Outcome State Fault Refusal :=
  let out := pairLetters s.lbuf
  if out.length > s.caps.lcap then .next ((s.raise .lovf).finish .lovf)
  else .next ((s.setLbuf out).finish .ok)

/-- `STRIPX` (R163). -/
def execStripx (s : State) : Host.Outcome State Fault Refusal :=
  .next ((s.setLbuf (stripFiller s.lbuf)).finish .ok)

/-- `UNSEP` (R164). -/
def execUnsep (s : State) : Host.Outcome State Fault Refusal :=
  .next ((s.setLbuf (removeFillers s.lbuf)).finish .ok)

/-! ## The ports -/

/-- A write to `TXIN` (R151). -/
def execTxin (data : Word) (s : State) : Host.Outcome State Fault Refusal :=
  if s.ibuf.length = s.caps.icap then .next (s.raise .iovf)
  else .next (s.setIbuf (s.ibuf ++ [txinByte data]))

/-- A read of `TXOUT` (R170). -/
def execTxout (s : State) : Host.Outcome State Fault Refusal :=
  match s.lbuf with
  | [] => .next ((s.raise .ounf).deliver emptyPop)
  | l :: rest => .next ((s.setLbuf rest).deliver (formatLetter (outputFormat s.ctrl) l))

/-- A read of `DGOUT` (R171). -/
def execDgout (s : State) : Host.Outcome State Fault Refusal :=
  match s.lbuf with
  | l1 :: l2 :: rest => .next ((s.setLbuf rest).deliver (formatDigraph l1 l2))
  | _ => .next ((s.raise .ounf).deliver emptyPop)

end Sys2Proof.Machine
end

