-- ==== Sys2Proof/Machine/Dispatch.lean ====
section
/-! DEFINITION. One arm per row of the opcode table. -/

namespace Sys2Proof.Machine

-- control, MA and MX, TX commands, TX ports
def exec (i : Instr) (s : State) : Host.Outcome State Fault Refusal :=
  match i with
  | .nop => Sys2Proof.Machine.execNop s
  | .gcd => Sys2Proof.Machine.execGcd s
  | .modinv => Sys2Proof.Machine.execModinv s
  | .mdet => Sys2Proof.Machine.execMdet s
  | .minv => Sys2Proof.Machine.execMinv s
  | .tclr => Sys2Proof.Machine.execTclr s
  | .clean => Sys2Proof.Machine.execClean s
  | .cleanJ => Sys2Proof.Machine.execCleanJ s
  | .pade => Sys2Proof.Machine.execPade s
  | .pairx => Sys2Proof.Machine.execPairx s
  | .stripx => Sys2Proof.Machine.execStripx s
  | .unsep => Sys2Proof.Machine.execUnsep s
  | .clrf => Sys2Proof.Machine.execClrf s
  | .txin data => Sys2Proof.Machine.execTxin data s
  | .txout => Sys2Proof.Machine.execTxout s
  | .dgout => Sys2Proof.Machine.execDgout s

end Sys2Proof.Machine
end

