-- ==== Sys2Proof/Machine/Transaction.lean ====
section
/-! DEFINITION. One event of a run: a transaction, a reset edge, an idle edge, a broken hold (R60 to R62, R250). -/

namespace Sys2Proof.Machine

/-- One transaction, executed completely (R60, R61): an instruction of the opcode table, or an access that is
none. -/
def transact (a : Access) (s : State) : Host.Outcome State Fault Refusal :=
  match decode a with
  | .instr i => exec i s
  | .reject why => .next (rejected why a s)

/-- One event. An idle edge changes nothing (R62). -/
def happen (e : Event) (s : State) : Host.Outcome State Fault Refusal :=
  match e with
  | .access a => transact a s
  | .reset => .next s.resetEdge
  | .idle => .next s
  | .holdBroken => .refused .holdBroken

/-- The host's next event happens; after the last one nothing does (R258). -/
def advance (s : State) : Host.Outcome State Fault Refusal :=
  match s.pending with
  | [] => .next s
  | e :: rest => happen e (s.setPending rest)

/-- The state with one more event to come, before the others. -/
def State.issue (s : State) (e : Event) : State := s.setPending (e :: s.pending)

end Sys2Proof.Machine
end

