-- ==== Sys2Proof/Machine/Step.lean ====
section
/-! DEFINITION. The step, and how one instruction comes to be the next to run (log entry 12). -/

namespace Sys2Proof.Machine

/-- One event of the run (R60, R258). -/
def step (s : State) : Host.Outcome State Fault Refusal := advance s

/-- The state in which the instruction with the opcode table's bits `w` is the host's next transaction. -/
def State.withFetchWord (s : State) (nbits w : Nat) : State :=
  match tableAccess nbits w with
  | some a => s.issue (.access a)
  | none => s

end Sys2Proof.Machine
end

