-- ==== Sys2Proof/Machine/Bus.lean ====
section
/-! DEFINITION. The signals of R62, edge by edge, and the events they amount to. -/

namespace Sys2Proof.Machine

/-- The inputs of the register interface at one rising edge of `clk`, and the level of `ready` there. When `ready`
falls is `TCMD`'s matter (R4, R257), which is open: the edges of a run are any (log entry 6). -/
structure Edge where
  rst : Bool
  sel : Bool
  wr : Bool
  ready : Bool
  addr : Addr
  wdata : Word
  deriving DecidableEq, Repr

/-- The transaction requested at an edge with `sel = 1`. -/
def Edge.request (e : Edge) : Access := if e.wr then .write e.addr e.wdata else .read e.addr

/-- Is the request of this edge stalled (R62)? -/
def Edge.stalls (e : Edge) : Bool := !e.rst && (e.sel && !e.ready)

/-- Does this edge hold the request that stood stalled at the edge before (R62)? -/
def Edge.holds (e before : Edge) : Bool :=
  e.sel == before.sel && (e.wr == before.wr && (e.addr == before.addr && e.wdata == before.wdata))

/-- The event of one edge. `rst` counts whatever else the inputs say (R250); a transaction occurs where `rst = 0`,
`sel = 1` and `ready = 1` (R62). -/
def Edge.event (before : Option Edge) (e : Edge) : Event :=
  if e.rst then .reset
  else if before.any fun b => b.stalls && !e.holds b then .holdBroken
  else if e.sel && e.ready then .access e.request
  else .idle

/-- The events of a run of edges. -/
def eventsOf (before : Option Edge) : List Edge → List Event
  | [] => []
  | e :: rest => e.event before :: eventsOf (some e) rest

end Sys2Proof.Machine
end

