-- ==== Sys2Proof/Safety.lean ====
section
/-! DEFINITION. The terms in which claims speak of a state: its legal values, and a run without misuse. -/

namespace Sys2Proof.Machine

/-- `STATUS.RC` of a state. -/
def State.rc (s : State) : BitVec 4 := rcField s.status

/-- One sticky fault bit of a state. -/
def State.flag (s : State) (f : FaultBit) : Bool := faultField f s.status

/-- "Bits 12:8 are 0" (R226): no fault since the last `CLRF` or reset. -/
def State.faultFree (s : State) : Prop := ∀ f, s.flag f = false

/-- The group rule of R26 on `DET`, `DINV` and the inverse matrix: a unit with its inverse, or a non-unit (or the reset
value 0) with five zeros. -/
def State.inverseGroup (s : State) : Prop :=
  (Nat.gcd s.det.toNat 26 = 1 ∧ s.dinv.toNat ≤ 25 ∧ s.det.toNat * s.dinv.toNat % 26 = 1) ∨
    (Nat.gcd s.det.toNat 26 ≠ 1 ∧ s.dinv = 0 ∧ s.inva = 0 ∧ s.invb = 0 ∧ s.invc = 0 ∧ s.invd = 0)

/-- `STATUS.RC`, bits 3:0, as a mask. -/
def rcBits : Word := 0x0000000F

/-- The five sticky bits, 12:8, as a mask. -/
def faultBits : Word := 0x00001F00

/-- What a transaction leaves alone: every register but `STATUS` and those listed, every bit of `STATUS` outside the
mask, the capacities, and the events still to come. -/
structure Frame (rs : List Reg) (mask : Word) (s t : State) : Prop where
  regs : ∀ r, r ≠ .status → r ∉ rs → t.get r = s.get r
  status : t.status &&& ~~~mask = s.status &&& ~~~mask
  caps : t.caps = s.caps
  pending : t.pending = s.pending

/-- Both buffers and the values returned so far are left alone. -/
structure SameText (s t : State) : Prop where
  ibuf : t.ibuf = s.ibuf
  lbuf : t.lbuf = s.lbuf
  returned : t.returned = s.returned

/-- The legal values of R21 and what R25 to R30 add: what holds of every state from reset on. -/
structure State.Inv (s : State) : Prop where
  /-- R4 -/
  caps : s.caps.wf = true
  /-- R27: every bit of `STATUS` not named reads 0 -/
  statusNamed : s.status &&& ~~~statusNamed = 0
  /-- R27: 5 to 15 are never produced -/
  resultCode : s.rc.toNat ≤ 4
  /-- R28: `OFMT` in 0, 1, 2, other bits 0 -/
  format : s.ctrl.toNat ≤ 2
  /-- R25: 0 to 2^31 -/
  result : s.res.toNat ≤ 2 ^ 31
  /-- R21: `DET` and the inverse matrix, 0 to 25 -/
  residues : ∀ r, r ∈ [Reg.det, .inva, .invb, .invc, .invd] → (s.get r).toNat ≤ 25
  /-- R26 -/
  group : s.inverseGroup
  /-- R29 -/
  bytes : s.ibuf.length ≤ s.caps.icap
  /-- R30 -/
  letters : s.lbuf.length ≤ s.caps.lcap

end Sys2Proof.Machine
end

