-- ==== Sys2Proof/Certificates/Slice0/Reference.lean ====
section
/-! DEFINITION. The yardsticks of the statements: tables of the spec, and its loops index by index. -/

namespace Sys2Proof.Reference

open Sys2Proof.Machine

/-- The 13 legal command words, the column "Word" of R92. -/
def legalWords : List Word :=
  [0x00000000, 0x00000001, 0x00000002, 0x00000003, 0x00000004, 0x00000010, 0x00000011, 0x00000111, 0x00000012,
   0x00000013, 0x00000014, 0x00000015, 0x0000001F]

/-- The commands of R92, beside their words. -/
def commandRows : List (Word × Instr) :=
  [(0x00000000, .nop), (0x00000001, .gcd), (0x00000002, .modinv), (0x00000003, .mdet), (0x00000004, .minv),
   (0x00000010, .tclr), (0x00000011, .clean), (0x00000111, .cleanJ), (0x00000012, .pade), (0x00000013, .pairx),
   (0x00000014, .stripx), (0x00000015, .unsep), (0x0000001F, .clrf)]

/-- `U26` of R9. -/
def units : List Nat := [1, 3, 5, 7, 9, 11, 15, 17, 19, 21, 23, 25]

/-- The row `RES` of the table of R117, by `r` from 0 to 25. -/
def inverseTable : List Nat :=
  [0, 1, 0, 9, 0, 21, 0, 15, 0, 3, 0, 19, 0, 0, 0, 7, 0, 23, 0, 11, 0, 5, 0, 17, 0, 25]

/-- `det(M)` of R131 on the integers the host wrote, without reduction. -/
def determinant (s : State) : Int := s.ma.toInt * s.md.toInt - s.mb.toInt * s.mc.toInt

/-- The letter bytes of R150: 0x41 to 0x5A and 0x61 to 0x7A. -/
def isLetterByte (b : Byte) : Bool :=
  (decide (0x41 ≤ b.toNat) && decide (b.toNat ≤ 0x5A)) || (decide (0x61 ≤ b.toNat) && decide (b.toNat ≤ 0x7A))

/-- Upper-casing a letter byte: the two rows of R150 are 0x20 apart. -/
def upperByte (b : Byte) : Byte := if 0x61 ≤ b.toNat then b - 0x20 else b

/-- The upper-case byte of a letter (R28, `UPPER`). -/
def byteOf (l : Letter) : Byte := BitVec.ofNat 8 (0x41 + l.val)

/-- The loop of R160's pseudocode from position `i`, at most `fuel` times round. -/
def pairxLoop (t : List Letter) : Nat → Nat → List Letter → List Letter
  | 0, _, out => out
  | fuel + 1, i, out =>
    if i < t.length then
      if i + 1 < t.length ∧ t.getD (i + 1) 0 ≠ t.getD i 0 then
        pairxLoop t fuel (i + 2) (out ++ [t.getD i 0, t.getD (i + 1) 0])
      else pairxLoop t fuel (i + 1) (out ++ [t.getD i 0, 23])
    else out

/-- `out` of R160: every round moves on by at least one letter. -/
def pairx (t : List Letter) : List Letter := pairxLoop t t.length 0 []

/-- The condition of R164's step 2 at position `i`. -/
def separatorAt (t : List Letter) (i : Nat) : Bool :=
  decide (t.getD i 0 = 23 ∧ 1 ≤ i ∧ i + 2 ≤ t.length ∧ t.getD (i - 1) 0 = t.getD (i + 1) 0 ∧ t.getD (i - 1) 0 ≠ 23)

/-- Step 2 of R164, position by position. -/
def dropAt (t : List Letter) : List Letter :=
  (List.range t.length).filterMap fun i => if separatorAt t i then none else some (t.getD i 0)

/-- Step 1 of R164, and the whole of R163. -/
def dropTrailing (t : List Letter) : List Letter :=
  if 1 ≤ t.length ∧ t.getD (t.length - 1) 0 = 23 then t.take (t.length - 1) else t

/-- A result register as an integer. -/
def entry (w : Word) : Int := (w.toNat : Int)

/-- The inverse matrix a state shows (R26). -/
def inverseOf (s : State) : Matrix := ⟨entry s.inva, entry s.invb, entry s.invc, entry s.invd⟩

/-- The matrix the host wrote (R130). -/
def operandOf (s : State) : Matrix := ⟨s.ma.toInt, s.mb.toInt, s.mc.toInt, s.md.toInt⟩

/-- Row times column, each entry mod 26 (R136, R206). -/
def product (m n : Matrix) : Matrix :=
  ⟨(m.a * n.a + m.b * n.c) % 26, (m.a * n.b + m.b * n.d) % 26, (m.c * n.a + m.d * n.c) % 26,
   (m.c * n.b + m.d * n.d) % 26⟩

/-- The identity matrix. -/
def identity : Matrix := ⟨1, 0, 0, 1⟩

/-- Every entry is a residue, 0 to 25. -/
def isReduced (m : Matrix) : Prop :=
  (0 ≤ m.a ∧ m.a ≤ 25) ∧ (0 ≤ m.b ∧ m.b ≤ 25) ∧ (0 ≤ m.c ∧ m.c ≤ 25) ∧ (0 ≤ m.d ∧ m.d ≤ 25)

/-- The storage registers of R21 and their addresses. -/
def registerRows : List (Addr × Reg) :=
  [(0x04, .status), (0x08, .ctrl), (0x0C, .opa), (0x10, .opb), (0x14, .res), (0x18, .ma), (0x1C, .mb), (0x20, .mc),
   (0x24, .md), (0x28, .det), (0x2C, .dinv), (0x30, .inva), (0x34, .invb), (0x38, .invc), (0x3C, .invd)]

/-- The operand registers of R23 and their addresses. -/
def operandRows : List (Addr × Reg) :=
  [(0x0C, .opa), (0x10, .opb), (0x18, .ma), (0x1C, .mb), (0x20, .mc), (0x24, .md)]

/-- The six registers `MINV` writes (R26). -/
def minvRegisters : List Reg := [.det, .dinv, .inva, .invb, .invc, .invd]

/-- The addresses R21 lets the host write: the RW and WO rows. -/
def writableAddrs : List Addr := [0x00, 0x08, 0x0C, 0x10, 0x18, 0x1C, 0x20, 0x24, 0x40]

/-- The addresses R21 lets the host read: the RW and RO rows. -/
def readableAddrs : List Addr :=
  [0x04, 0x08, 0x0C, 0x10, 0x14, 0x18, 0x1C, 0x20, 0x24, 0x28, 0x2C, 0x30, 0x34, 0x38, 0x3C, 0x44, 0x48, 0x4C, 0x50,
   0x54]

/-- A transaction at an address that takes its direction. Every other transaction is misaligned, unmapped or in the
wrong direction (R64, R66, R67). -/
def reaches : Access → Prop
  | .write a _ => a ∈ writableAddrs
  | .read a => a ∈ readableAddrs

/-- The host broke R62's rule at this edge: the edge before it stalled a request (`rst = 0`, `sel = 1`, `ready = 0`),
and `sel`, `wr`, `addr` or `wdata` is no longer what it was. -/
def breaksHold (before : Option Edge) (e : Edge) : Prop :=
  ∃ b, before = some b ∧ b.rst = false ∧ b.sel = true ∧ b.ready = false ∧
    ¬ (e.sel = b.sel ∧ e.wr = b.wr ∧ e.addr = b.addr ∧ e.wdata = b.wdata)

/-- What a bad access returns: a read returns 0x00000000 (R223). -/
def badReturn : Access → List Word
  | .write _ _ => []
  | .read _ => [0x00000000]

end Sys2Proof.Reference
end

