-- ==== Sys2Proof/Certificates/Slice0/Obligations.lean ====
section
/-! DEFINITION. The statements for the provers, from the numbered rules of the spec. -/

open Sys2Proof Sys2Proof.Machine Sys2Proof.Reference

/-! ## Encoding and fetch -/

/-- R92 and R98: the 13 words and the three ports, as the tables spell them. -/
def Obligations.SpelledWordsDecode : Prop :=
  (∀ row ∈ commandRows, decode (.write 0x00 row.1) = .instr row.2) ∧
    (∀ w, decode (.write 0x40 w) = .instr (.txin w)) ∧
    decode (.read 0x44) = .instr .txout ∧ decode (.read 0x48) = .instr .dgout

/-- Decode and encode agree in both directions: an instruction has one transaction, and no other transaction is
read as it. -/
def Obligations.EncodeDecodeAgree : Prop :=
  ∀ (a : Access) (i : Instr), i.wf = true → (decode a = .instr i ↔ a = encode i)

/-- R91, R92: `decode` is total; the 13 words of the table, and no others, spell a command, each the one beside it. -/
def Obligations.LegalWordsExactly : Prop :=
  (∀ row ∈ commandRows, decodeCommand row.1 = .instr row.2) ∧
  ∀ w : Word, ((∃ i, decodeCommand w = .instr i) ↔ w ∈ legalWords) ∧
    ((∃ why, decodeCommand w = .reject why) ↔ w ∉ legalWords)

/-- R96: an illegal word executes nothing; it sets `RC_ILLCMD` and `F_ILLCMD`. -/
def Obligations.IllegalWordExecutesNothing : Prop :=
  ∀ (s : State) (w : Word), w ∉ legalWords →
    ∃ t, step (s.issue (.access (.write 0x00 w))) = .next t ∧ t.rc = 3 ∧ t.flag .illcmd = true ∧
      Frame [] (rcBits ||| 0x100) s t ∧ SameText s t

/-- The step on a transaction that decodes is `exec` of the instruction, with that transaction no longer to come. -/
def Obligations.StepRunsDecodedInstruction : Prop :=
  ∀ (s : State) (a : Access) (rest : List Event) (i : Instr), s.pending = .access a :: rest →
    decode a = .instr i → step s = exec i (s.setPending rest)

/-- The opcode table's bits, placed as the host's next transaction, run as the instruction they decode to (the
model's numbering, log entry 12). -/
def Obligations.TableWordRunsNext : Prop :=
  ∀ (s : State) (nbits w : Nat) (i : Instr), decodeTableWord nbits w = some i →
    step (s.withFetchWord nbits w) = exec i s

/-! ## Unit MA -/

/-- R112 with R111: `GCD` on all operand pairs. -/
def Obligations.GcdWritesGreatestCommonDivisor : Prop :=
  decode (.write 0x00 0x00000001) = .instr .gcd ∧
  ∀ s : State, ∃ t, exec .gcd s = .next t ∧
    t.res.toNat = Nat.gcd s.opa.toInt.natAbs s.opb.toInt.natAbs ∧ t.res.toNat ≤ 2 ^ 31 ∧ t.rc = 0 ∧
    Frame [.res] rcBits s t ∧ SameText s t

/-- The coprime test of R113, and the other values of `gcd(a, 26)` that R112 lists. -/
def Obligations.GcdWith26TestsUnits : Prop :=
  ∀ s : State, s.opb = 26 → ∃ t, exec .gcd s = .next t ∧
    (t.res = 1 ↔ (s.opa.toInt % 26).toNat ∈ units) ∧ (t.res = 26 ↔ s.opa.toInt % 26 = 0) ∧
    (t.res = 13 ↔ s.opa.toInt % 26 = 13) ∧
    (t.res = 2 ↔ s.opa.toInt % 26 % 2 = 0 ∧ s.opa.toInt % 26 ≠ 0)

/-- R116, in the words of the source: the smallest `i` in 1..25 with `(a*i) mod 26 = 1`, or none. -/
def Obligations.ModinvFindsSmallestInverse : Prop :=
  decode (.write 0x00 0x00000002) = .instr .modinv ∧
  ∀ s : State, ∃ t, exec .modinv s = .next t ∧
    ((1 ≤ t.res.toNat ∧ t.res.toNat ≤ 25 ∧ s.opa.toInt * t.res.toNat % 26 = 1 ∧
        (∀ j : Nat, 1 ≤ j → j < t.res.toNat → s.opa.toInt * j % 26 ≠ 1) ∧ t.rc = 0) ∨
      ((∀ j : Nat, 1 ≤ j → j ≤ 25 → s.opa.toInt * j % 26 ≠ 1) ∧ t.res = 0 ∧ t.rc = 1)) ∧
    Frame [.res] rcBits s t ∧ SameText s t

/-- The table of R117, for all 2^32 values of `OPA` as R118 asks. -/
def Obligations.ModinvMatchesTable : Prop :=
  ∀ s : State, ∃ t, exec .modinv s = .next t ∧
    t.res.toNat = inverseTable.getD (s.opa.toInt % 26).toNat 0 ∧
    t.rc = if (s.opa.toInt % 26).toNat ∈ units then 0 else 1

/-! ## Unit MX -/

/-- R132 on the integers the host wrote (R8: the reduction changes no result). -/
def Obligations.MdetWritesDeterminantResidue : Prop :=
  decode (.write 0x00 0x00000003) = .instr .mdet ∧
  ∀ s : State, ∃ t, exec .mdet s = .next t ∧ entry t.res = determinant s % 26 ∧ t.rc = 0 ∧
    Frame [.res] rcBits s t ∧ SameText s t

/-- R135: the unit test, and both outcomes. -/
def Obligations.MinvWritesInverseOrZeros : Prop :=
  decode (.write 0x00 0x00000004) = .instr .minv ∧
  ∀ s : State, ∃ t, exec .minv s = .next t ∧ entry t.det = determinant s % 26 ∧
    (Int.gcd (determinant s) 26 = 1 →
      1 ≤ entry t.dinv ∧ entry t.dinv ≤ 25 ∧ entry t.det * entry t.dinv % 26 = 1 ∧
      entry t.inva = entry t.dinv * s.md.toInt % 26 ∧ entry t.invb = entry t.dinv * -s.mb.toInt % 26 ∧
      entry t.invc = entry t.dinv * -s.mc.toInt % 26 ∧ entry t.invd = entry t.dinv * s.ma.toInt % 26 ∧ t.rc = 0) ∧
    (Int.gcd (determinant s) 26 ≠ 1 →
      t.dinv = 0 ∧ t.inva = 0 ∧ t.invb = 0 ∧ t.invc = 0 ∧ t.invd = 0 ∧ t.rc = 2) ∧
    Frame minvRegisters rcBits s t ∧ SameText s t

/-- The law the spec derives in R136: a two-sided inverse, and the only reduced one. -/
def Obligations.MinvIsTheTwoSidedInverse : Prop :=
  ∀ s : State, Int.gcd (determinant s) 26 = 1 → ∃ t, exec .minv s = .next t ∧
    isReduced (inverseOf t) ∧ product (operandOf s) (inverseOf t) = identity ∧
    product (inverseOf t) (operandOf s) = identity ∧
    ∀ n : Matrix, isReduced n → product (operandOf s) n = identity → n = inverseOf t

/-- Key recovery (R206 steps 4 and 5): for a plaintext matrix P in `MA..MD` with unit determinant and a ciphertext
matrix C = K P mod 26, the product of C and the inverse `MINV` leaves is K. -/
def Obligations.MinvRecoversHillKey : Prop :=
  ∀ (s : State) (k : Matrix), Int.gcd (determinant s) 26 = 1 → isReduced k →
    ∃ t, exec .minv s = .next t ∧ product (product k (operandOf s)) (inverseOf t) = k

/-- R130: nothing but the entries mod 26 is ever used. -/
def Obligations.MatrixCommandsUseResiduesOnly : Prop :=
  ∀ s s' : State, (∀ r ∈ [Reg.ma, .mb, .mc, .md], (s.get r).toInt % 26 = (s'.get r).toInt % 26) →
    (∃ t t', exec .mdet s = .next t ∧ exec .mdet s' = .next t' ∧ t.res = t'.res ∧ t.rc = t'.rc) ∧
    (∃ t t', exec .minv s = .next t ∧ exec .minv s' = .next t' ∧ (∀ r ∈ minvRegisters, t.get r = t'.get r) ∧
      t.rc = t'.rc)

/-! ## Unit TX: commands -/

/-- R152. -/
def Obligations.TclrEmptiesBothBuffers : Prop :=
  decode (.write 0x00 0x00000010) = .instr .tclr ∧
  ∀ s : State, ∃ t, exec .tclr s = .next t ∧ t.ibuf = [] ∧ t.lbuf = [] ∧ t.returned = s.returned ∧ t.rc = 0 ∧
    Frame [] rcBits s t

/-- R153 with R150: the letter bytes of the text, in order, upper-cased; everything else vanishes. -/
def Obligations.CleanKeepsLettersInOrder : Prop :=
  decode (.write 0x00 0x00000011) = .instr .clean ∧
  ∀ s : State, ∃ t, exec .clean s = .next t ∧
    t.lbuf.map byteOf = (s.ibuf.filter isLetterByte).map upperByte ∧ t.ibuf = [] ∧ t.returned = s.returned ∧
    t.rc = 0 ∧ Frame [] rcBits s t

/-- R154: as `CLEAN`, with every J an I. -/
def Obligations.CleanJMergesJIntoI : Prop :=
  decode (.write 0x00 0x00000111) = .instr .cleanJ ∧
  ∀ s : State, ∃ t u, exec .clean s = .next t ∧ exec .cleanJ s = .next u ∧
    u.lbuf = t.lbuf.map (fun l => if l = 9 then 8 else l) ∧ 9 ∉ u.lbuf ∧ u.ibuf = [] ∧ u.returned = s.returned ∧
    u.rc = 0 ∧ Frame [] rcBits s u

/-- R156: the pad; the result has even length, fits (R4), and a second `PADE` leaves it alone. -/
def Obligations.PadePadsToEven : Prop :=
  decode (.write 0x00 0x00000012) = .instr .pade ∧
  ∀ s : State, ∃ t, exec .pade s = .next t ∧
    (s.lbuf.length % 2 = 1 → t.lbuf = s.lbuf ++ [23]) ∧ (s.lbuf.length % 2 = 0 → t.lbuf = s.lbuf) ∧
    t.lbuf.length % 2 = 0 ∧ (s.caps.wf = true → s.lbuf.length ≤ s.caps.lcap → t.lbuf.length ≤ s.caps.lcap) ∧
    t.ibuf = s.ibuf ∧ t.returned = s.returned ∧ t.rc = 0 ∧ Frame [] rcBits s t ∧
    ∃ u, exec .pade t = .next u ∧ u.lbuf = t.lbuf

/-- R160: `PAIRX` is the index loop of the pseudocode, with both of its ends. -/
def Obligations.PairxRunsTheScan : Prop :=
  decode (.write 0x00 0x00000013) = .instr .pairx ∧
  ∀ s : State,
    ((pairx s.lbuf).length ≤ s.caps.lcap → ∃ t, exec .pairx s = .next t ∧ t.lbuf = pairx s.lbuf ∧
      t.ibuf = s.ibuf ∧ t.returned = s.returned ∧ t.rc = 0 ∧ Frame [] rcBits s t) ∧
    (s.caps.lcap < (pairx s.lbuf).length → ∃ t, exec .pairx s = .next t ∧ t.rc = 4 ∧ t.flag .lovf = true ∧
      Frame [] (rcBits ||| 0x1000) s t ∧ SameText s t)

/-- The corner cases of R160: an even output of at most twice the length that keeps the text's letters in order, and
in every pair the letters differ or both are X. -/
def Obligations.PairxPairsDiffer : Prop :=
  ∀ (s t : State), exec .pairx s = .next t → t.rc = 0 →
    t.lbuf.length % 2 = 0 ∧ t.lbuf.length ≤ 2 * s.lbuf.length ∧ s.lbuf.Sublist t.lbuf ∧
    ∀ k, 2 * k + 1 < t.lbuf.length →
      t.lbuf.getD (2 * k) 0 ≠ t.lbuf.getD (2 * k + 1) 0 ∨
        (t.lbuf.getD (2 * k) 0 = 23 ∧ t.lbuf.getD (2 * k + 1) 0 = 23)

/-- R160's remark on R4: a text that came from one `CLEAN` never overflows `LBUF` when paired. -/
def Obligations.PairxFitsAfterClean : Prop :=
  ∀ s : State, s.Inv → ∃ t u, exec .clean s = .next t ∧ exec .pairx t = .next u ∧ u.rc = 0 ∧
    u.flag .lovf = s.flag .lovf ∧ u.lbuf = pairx t.lbuf

/-- R163. -/
def Obligations.StripxDropsOneTrailingFiller : Prop :=
  decode (.write 0x00 0x00000014) = .instr .stripx ∧
  ∀ s : State, ∃ t, exec .stripx s = .next t ∧ t.lbuf = dropTrailing s.lbuf ∧
    (∀ u, s.lbuf = u ++ [23] → t.lbuf = u) ∧ t.ibuf = s.ibuf ∧ t.returned = s.returned ∧ t.rc = 0 ∧
    Frame [] rcBits s t

/-- R164: `UNSEP` is the pseudocode, position by position. -/
def Obligations.UnsepRunsBothSteps : Prop :=
  decode (.write 0x00 0x00000015) = .instr .unsep ∧
  ∀ s : State, ∃ t, exec .unsep s = .next t ∧ t.lbuf = dropAt (dropTrailing s.lbuf) ∧
    t.ibuf = s.ibuf ∧ t.returned = s.returned ∧ t.rc = 0 ∧ Frame [] rcBits s t

/-- The claim the spec derives in R164: the order of the two steps makes no difference. -/
def Obligations.UnsepStepOrderIrrelevant : Prop :=
  ∀ s : State, ∃ t, exec .unsep s = .next t ∧ t.lbuf = dropTrailing (dropAt s.lbuf)

/-- The one law R165 derives: on a text without X, `PAIRX` then `UNSEP` gives the text back. -/
def Obligations.PairxThenUnsepRestores : Prop :=
  ∀ s : State, (23 : Letter) ∉ s.lbuf → 2 * s.lbuf.length ≤ s.caps.lcap →
    ∃ t u, exec .pairx s = .next t ∧ exec .unsep t = .next u ∧ u.lbuf = s.lbuf

/-! ## Unit TX: ports -/

/-- R151. -/
def Obligations.TxinAppendsLowByte : Prop :=
  (∀ w, decode (.write 0x40 w) = .instr (.txin w)) ∧
  ∀ (s : State) (w : Word),
    (s.ibuf.length ≠ s.caps.icap → ∃ t, exec (.txin w) s = .next t ∧ t.ibuf = s.ibuf ++ [w.setWidth 8] ∧
      t.lbuf = s.lbuf ∧ t.returned = s.returned ∧ Frame [] 0 s t) ∧
    (s.ibuf.length = s.caps.icap → ∃ t, exec (.txin w) s = .next t ∧ t.flag .iovf = true ∧
      Frame [] 0x400 s t ∧ SameText s t)

/-- R170, for the formats R28 lets `CTRL` store. `OFMT` is never 3 in a state that meets `State.Inv`. -/
def Obligations.TxoutPopsOneLetter : Prop :=
  decode (.read 0x44) = .instr .txout ∧
  (∀ (s : State) (l : Letter) (rest : List Letter), s.lbuf = l :: rest → s.ctrl.toNat % 4 ≠ 3 →
    ∃ t v, exec .txout s = .next t ∧ t.lbuf = rest ∧ t.ibuf = s.ibuf ∧ t.returned = s.returned ++ [v] ∧
      Frame [] 0 s t ∧ (s.ctrl.toNat % 4 = 0 → v.toNat = l.val) ∧
      (s.ctrl.toNat % 4 = 1 → v.toNat = 0x41 + l.val) ∧ (s.ctrl.toNat % 4 = 2 → v.toNat = 0x61 + l.val)) ∧
  (∀ s : State, s.lbuf = [] → ∃ t, exec .txout s = .next t ∧ t.returned = s.returned ++ [0x80000000] ∧
      t.flag .ounf = true ∧ t.lbuf = [] ∧ t.ibuf = s.ibuf ∧ Frame [] 0x800 s t)

/-- R171. -/
def Obligations.DgoutPopsOneDigraph : Prop :=
  decode (.read 0x48) = .instr .dgout ∧
  (∀ (s : State) (l1 l2 : Letter) (rest : List Letter), s.lbuf = l1 :: l2 :: rest →
    ∃ t v, exec .dgout s = .next t ∧ t.lbuf = rest ∧ t.ibuf = s.ibuf ∧ t.returned = s.returned ++ [v] ∧
      (v.extractLsb' 8 5).toNat = l1.val ∧ (v.extractLsb' 0 5).toNat = l2.val ∧ v &&& ~~~0x1F1F#32 = 0 ∧
      Frame [] 0 s t) ∧
  (∀ s : State, s.lbuf.length < 2 → ∃ t, exec .dgout s = .next t ∧ t.returned = s.returned ++ [0x80000000] ∧
      t.flag .ounf = true ∧ t.lbuf = s.lbuf ∧ t.ibuf = s.ibuf ∧ Frame [] 0x800 s t)

/-- R157: digraph number k is `(LBUF[2k], LBUF[2k+1])`, and n reads of `DGOUT` deliver the first n in order, whatever
the host does after them. -/
def Obligations.DigraphsComeOutInOrder : Prop :=
  ∀ (n : Nat) (s : State) (rest : List Event), 2 * n ≤ s.lbuf.length →
    s.pending = List.replicate n (.access (.read 0x48)) ++ rest →
    ∃ t, Host.Core.run Sys2Proof.core n s = .next t ∧
      t.returned = s.returned ++ (List.range n).map (fun k =>
        BitVec.ofNat 32 (256 * (s.lbuf.getD (2 * k) 0).val + (s.lbuf.getD (2 * k + 1) 0).val)) ∧
      t.lbuf = s.lbuf.drop (2 * n) ∧ t.status = s.status ∧ t.pending = rest

/-! ## Control -/

/-- R190. -/
def Obligations.NopWritesOnlyTheResultCode : Prop :=
  decode (.write 0x00 0x00000000) = .instr .nop ∧
  ∀ s : State, ∃ t, exec .nop s = .next t ∧ t.rc = 0 ∧ Frame [] rcBits s t ∧ SameText s t

/-- R191. That `STATUS` is 0 afterwards rests on R27's unnamed bits reading 0. -/
def Obligations.ClrfClearsAllFaultBits : Prop :=
  decode (.write 0x00 0x0000001F) = .instr .clrf ∧
  ∀ s : State, ∃ t, exec .clrf s = .next t ∧ t.faultFree ∧ t.rc = 0 ∧
    (s.status &&& ~~~statusNamed = 0 → t.status = 0) ∧ Frame [] (rcBits ||| faultBits) s t ∧ SameText s t

/-! ## The register interface -/

/-- R23, R68: an operand register takes every word, and a write to it changes nothing else. -/
def Obligations.OperandRegistersStoreEveryWord : Prop :=
  ∀ (s : State) (row : Addr × Reg) (w : Word), row ∈ operandRows →
    ∃ t, step (s.issue (.access (.write row.1 w))) = .next t ∧ t.get row.2 = w ∧ Frame [row.2] 0 s t ∧ SameText s t

/-- R28: `CTRL` stores 0, 1 and 2, and refuses every other word with `F_ACC`. -/
def Obligations.CtrlStoresOnlyLegalFormats : Prop :=
  ∀ (s : State) (w : Word),
    (w.toNat ≤ 2 → ∃ t, step (s.issue (.access (.write 0x08 w))) = .next t ∧ t.ctrl = w ∧ Frame [.ctrl] 0 s t ∧
      SameText s t) ∧
    (2 < w.toNat → ∃ t, step (s.issue (.access (.write 0x08 w))) = .next t ∧ t.flag .acc = true ∧
      Frame [] 0x200 s t ∧ SameText s t)

/-- A read of a storage register returns the word it holds and changes nothing (R21, R71). -/
def Obligations.RegisterReadsHaveNoSideEffect : Prop :=
  ∀ (s : State) (row : Addr × Reg), row ∈ registerRows →
    ∃ t, step (s.issue (.access (.read row.1))) = .next t ∧ t.returned = s.returned ++ [s.get row.2] ∧
      (∀ r, t.get r = s.get r) ∧ t.ibuf = s.ibuf ∧ t.lbuf = s.lbuf ∧ t.caps = s.caps ∧ t.pending = s.pending

/-- R31: the three views are computed from the buffers, and reading them has no side effect; `LLEN[0]` is 1 exactly when
the letter count is odd, however large it is. What else a count of 2^32 or more reads as, which no rule gives, is free
(log entry 18). -/
def Obligations.CountViewsReadTheBuffers : Prop :=
  ∀ (s : State) (row : Addr × Nat), row ∈ [(0x4C, s.ibuf.length), (0x50, s.lbuf.length), (0x54, s.lbuf.length / 2)] →
    ∃ t v, step (s.issue (.access (.read row.1))) = .next t ∧ t.returned = s.returned ++ [v] ∧
      (row.2 < 2 ^ 32 → v.toNat = row.2) ∧
      (row.1 = 0x50 → (v.getLsbD 0 = true ↔ s.lbuf.length % 2 = 1)) ∧ Frame [] 0 s t ∧ t.ibuf = s.ibuf ∧ t.lbuf = s.lbuf

/-- R64, R66, R67: a misaligned, unmapped or wrong-direction transaction sets `F_ACC`, and a read returns 0; nothing
else changes. -/
def Obligations.BadAccessesOnlySetAcc : Prop :=
  ∀ (s : State) (a : Access), ¬ reaches a →
    ∃ t, step (s.issue (.access a)) = .next t ∧ t.flag .acc = true ∧ Frame [] 0x200 s t ∧ t.ibuf = s.ibuf ∧
      t.lbuf = s.lbuf ∧ t.returned = s.returned ++ badReturn a

/-! ## The whole machine -/

/-- R61: every transaction completes, whatever the state; the next one finds it done. -/
def Obligations.EveryTransactionCompletes : Prop :=
  ∀ (s : State) (a : Access) (rest : List Event), s.pending = .access a :: rest →
    ∃ t, step s = .next t ∧ t.pending = rest ∧ t.caps = s.caps

/-- R221: no transaction but a write to `CMD` changes `RC`, and a write to `CMD` writes one of the five codes. -/
def Obligations.OnlyCommandsWriteTheResultCode : Prop :=
  ∀ (s t : State) (a : Access), step (s.issue (.access a)) = .next t →
    ((∀ w, a ≠ .write 0x00 w) → t.rc = s.rc) ∧ (∀ w, a = .write 0x00 w → t.rc.toNat ≤ 4)

/-- R222: a fault bit stays set until `CLRF` or reset. -/
def Obligations.FaultBitsAreSticky : Prop :=
  ∀ (s t : State) (e : Event) (f : FaultBit), step (s.issue e) = .next t → s.flag f = true →
    e ≠ .reset → e ≠ .access (.write 0x00 0x0000001F) → t.flag f = true

/-- R224: one transaction raises at most one fault. -/
def Obligations.AtMostOneFaultPerTransaction : Prop :=
  ∀ (s t : State) (a : Access) (f g : FaultBit), step (s.issue (.access a)) = .next t →
    s.flag f = false → s.flag g = false → t.flag f = true → t.flag g = true → f = g

/-- R23: an operand register changes only by the host's write to it, or by reset. -/
def Obligations.OperandsChangeOnlyByTheirOwnWrite : Prop :=
  ∀ (s t : State) (e : Event) (row : Addr × Reg), row ∈ operandRows → step (s.issue e) = .next t →
    e ≠ .reset → (∀ w, e ≠ .access (.write row.1 w)) → t.get row.2 = s.get row.2

/-- R25, R26: `RES` changes only by `GCD`, `MODINV`, `MDET`; the group of `DET` only by `MINV`; or by reset. -/
def Obligations.ResultsChangeOnlyByTheirCommands : Prop :=
  ∀ (s t : State) (e : Event), step (s.issue e) = .next t → e ≠ .reset →
    ((∀ w ∈ [0x00000001, 0x00000002, 0x00000003], e ≠ .access (.write 0x00 w)) → t.res = s.res) ∧
    (e ≠ .access (.write 0x00 0x00000004) → ∀ r ∈ minvRegisters, t.get r = s.get r)

/-- R29, R30: what changes each buffer, complete. -/
def Obligations.BuffersChangeOnlyAsListed : Prop :=
  ∀ (s t : State) (a : Access), step (s.issue (.access a)) = .next t →
    ((∀ w, a ≠ .write 0x40 w) → (∀ w ∈ [0x00000010, 0x00000011, 0x00000111], a ≠ .write 0x00 w) →
      t.ibuf = s.ibuf) ∧
    (a ≠ .read 0x44 → a ≠ .read 0x48 →
      (∀ w ∈ [0x00000010, 0x00000011, 0x00000111, 0x00000012, 0x00000013, 0x00000014, 0x00000015],
        a ≠ .write 0x00 w) → t.lbuf = s.lbuf)

/-- R11, R36: a command's results are a function of the operand registers, the buffers and the capacity. No earlier
result, flag, format or returned value enters them. -/
def Obligations.CommandsAreFunctionsOfTheirOperands : Prop :=
  ∀ (w : Word) (s s' t t' : State), (∀ row ∈ operandRows, s.get row.2 = s'.get row.2) → s.ibuf = s'.ibuf →
    s.lbuf = s'.lbuf → s.caps = s'.caps →
    step (s.issue (.access (.write 0x00 w))) = .next t → step (s'.issue (.access (.write 0x00 w))) = .next t' →
    t.rc = t'.rc ∧ t.ibuf = t'.ibuf ∧ t.lbuf = t'.lbuf ∧
    ∀ r, r ≠ .status → t.get r = t'.get r ∨ (t.get r = s.get r ∧ t'.get r = s'.get r)

/-- The invariant of R21 and R25 to R30 is kept by every event, in every state that meets it. -/
def Obligations.StepKeepsInv : Prop :=
  ∀ s t : State, s.Inv → step s = .next t → t.Inv

/-! ## Reset, the bus, the end of a run -/

/-- The invariant holds in the reset state of every engine whose capacities meet R4. -/
def Obligations.ResetMeetsInv : Prop :=
  (∀ c : Capacities, c.wf = true → (State.resetWith c).Inv) ∧ State.reset.Inv

/-- R250: at an edge with `rst = 1`, whatever else the inputs say, every register is 0 and both buffers are empty. The
capacities are configuration (R22). That no transaction occurs there is `Obligations.NoTransactionOccursAtReset`. -/
def Obligations.ResetEdgeClearsEveryRegister : Prop :=
  ∀ (s : State) (before : Option Edge) (e : Edge), e.rst = true →
    ∃ t, step (s.issue (e.event before)) = .next t ∧ (∀ r, t.get r = 0) ∧ t.ibuf = [] ∧ t.lbuf = [] ∧ t.caps = s.caps

/-- The commands on the reset state, as R253 works them out. -/
def Obligations.CommandsOnTheResetState : Prop :=
  ∀ c : Capacities, let s := State.resetWith c
    (∃ t, exec .gcd s = .next t ∧ t.res = 0 ∧ t.status = 0) ∧ (∃ t, exec .modinv s = .next t ∧ t.res = 0 ∧ t.status = 1) ∧
    (∃ t, exec .mdet s = .next t ∧ t.res = 0 ∧ t.status = 0) ∧ (∃ t, exec .minv s = .next t ∧ t.det = 0 ∧ t.status = 2) ∧
    (∀ i ∈ [Instr.tclr, .clean, .cleanJ, .pade, .pairx, .stripx, .unsep, .nop, .clrf], exec i s = .next s) ∧
    (∀ i ∈ [Instr.txout, .dgout], ∃ t, exec i s = .next t ∧ t.returned = [0x80000000] ∧ t.status = 0x800)

/-- R251 at the level of a run: whatever transactions and idle edges came before, a reset edge leaves the reset
state, and none of their results survives. That the record of the returned values stays is the model's (log entry
10). -/
def Obligations.ResetAbandonsWhatWentBefore : Prop :=
  ∀ (es : List Event) (s : State), .holdBroken ∉ es → s.pending = es ++ [.reset] →
    ∃ t vs, Host.Core.run Sys2Proof.core (es.length + 1) s = .next t ∧
      t = { State.resetWith s.caps with returned := s.returned ++ vs }

/-- R62 and R250 at the pins, for an edge of a run and the edge before it, if there is one: a transaction occurs
exactly at an edge with `rst = 0`, `sel = 1`, `ready = 1`, and is the requested one, a stalled request that was held and
now completes among them; `rst = 1` counts whatever else the inputs say; every other edge is idle. The exception is a
stalled request that changed, which R62 puts outside the spec and the model names a broken hold (the model's choice, log
entry 7). -/
def Obligations.TransactionsOccurAtReadyEdges : Prop :=
  ∀ (before : Option Edge) (e : Edge),
    (∀ a : Access, e.event before = .access a ↔ ¬ breaksHold before e ∧ e.rst = false ∧ e.sel = true ∧ e.ready = true ∧
      a = (if e.wr = true then .write e.addr e.wdata else .read e.addr)) ∧
    (e.event before = .reset ↔ e.rst = true) ∧
    (e.event before = .holdBroken ↔ e.rst = false ∧ breaksHold before e) ∧
    (e.event before = .idle ↔ ¬ breaksHold before e ∧ e.rst = false ∧ ¬ (e.sel = true ∧ e.ready = true))

/-- The model refuses a trace in which a stalled request changed, which R62 puts outside the spec (log entry 7). -/
def Obligations.BrokenHoldIsRefused : Prop :=
  ∀ s : State, step (s.issue .holdBroken) = .refused .holdBroken

/-- R62, R258: an idle edge changes nothing, and nothing happens after the last event. -/
def Obligations.NothingHappensWithoutATransaction : Prop :=
  (∀ s : State, step (s.issue .idle) = .next s) ∧ (∀ s : State, s.pending = [] → step s = .next s)

/-- R250: no transaction occurs at an edge with `rst = 1`, whatever is requested there: no read returns a value and no
later event of the host is used up. The two lists in which that shows are the model's (log entry 10). -/
def Obligations.NoTransactionOccursAtReset : Prop :=
  ∀ (s : State) (before : Option Edge) (e : Edge), e.rst = true → (∀ a, e.event before ≠ .access a) ∧
    ∃ t, step (s.issue (e.event before)) = .next t ∧ t.returned = s.returned ∧ t.pending = s.pending

/-- The model's choice (log entry 5) in the states with `OFMT` 3, which no run reaches: a read of `TXOUT` still pops
its letter and returns one value, which is left open. -/
def Obligations.TxoutPopsUnderReservedFormat : Prop :=
  ∀ (s : State) (l : Letter) (rest : List Letter), s.lbuf = l :: rest → s.ctrl.toNat % 4 = 3 →
    ∃ t v, exec .txout s = .next t ∧ t.lbuf = rest ∧ t.ibuf = s.ibuf ∧ t.returned = s.returned ++ [v] ∧ Frame [] 0 s t
end

