-- ==== Sys2Proof/Laws/Arithmetic.lean ====
section
/-! SUPPORT. What the integer functions of units MA and MX compute. -/

namespace Sys2Proof.Machine

/-- With `|v| + 1` rounds the loop of R111 has run to its end. -/
theorem euclid_eq_gcd (fuel u v : Nat) (h : v < fuel) : euclid fuel u v = Nat.gcd u v := by
  induction fuel generalizing u v with
  | zero => omega
  | succ n ih =>
    unfold euclid
    split
    · rename_i hv; simp [hv]
    · rename_i hv
      rw [ih v (u % v) (by have := Nat.mod_lt u (Nat.pos_of_ne_zero hv); omega), Nat.gcd_comm u v]
      rw [Nat.gcd_rec v u, Nat.gcd_comm]

/-- The modelled `gcdInt` is the greatest common divisor of the absolute values (R111). -/
theorem gcdInt_eq (a b : Int) : gcdInt a b = Nat.gcd a.natAbs b.natAbs := euclid_eq_gcd _ _ _ (by omega)

/-- A residue is 0 to 25 (R7). -/
theorem residue_range (v : Int) : 0 ≤ residue v ∧ residue v ≤ 25 := by unfold residue; omega

/-- A number that fits 32 bits is read back from its word. -/
theorem wordOf_toNat (v : Int) (h0 : 0 ≤ v) (h1 : v < 2 ^ 32) : ((wordOf v).toNat : Int) = v := by
  simp [wordOf, BitVec.toNat_ofInt]
  omega

/-- A count that fits in 32 bits is read back from its word (R31). -/
theorem countWord_toNat (wide : Nat → Word) (n : Nat) (h : n < 2 ^ 32) : (countWord wide n).toNat = n := by
  simp only [countWord, h, ↓reduceIte, BitVec.toNat_ofNat]
  omega

/-- `LLEN[0]` is the parity of the letter count, however large that is (R31). -/
theorem llenView_parity (s : State) : (llenView s).toNat % 2 = s.lbuf.length % 2 := by
  unfold llenView
  by_cases h : s.lbuf.length < 2 ^ 32
  · rw [countWord_toNat _ _ h]
  · simp only [countWord, h, ↓reduceIte, wideLetterCount, BitVec.toNat_append, BitVec.toNat_ofNat]
    rw [← Nat.shiftLeft_add_eq_or_of_lt (by omega), Nat.shiftLeft_eq]
    omega

/-- The search of R116 by cases: it finds the smallest inverse, or there is none. -/
theorem modInverse_cases (r : Int) :
    (∃ i : Nat, modInverse r = some i ∧ 1 ≤ i ∧ i ≤ 25 ∧ r * i % 26 = 1 ∧ ∀ j : Nat, 1 ≤ j → j < i → r * j % 26 ≠ 1) ∨
    (modInverse r = none ∧ ∀ j : Nat, 1 ≤ j → j ≤ 25 → r * j % 26 ≠ 1) := by
  cases h : modInverse r with
  | none =>
    refine .inr ⟨rfl, fun j h1 h2 => ?_⟩
    have := List.find?_eq_none.mp h j (by simp [List.mem_range'_1]; omega)
    simpa using this
  | some i =>
    obtain ⟨hp, pre, post, hl, hn⟩ := List.find?_eq_some_iff_append.mp h
    have hi : i ∈ List.range' 1 25 := by rw [hl]; simp
    have hi := List.mem_range'_1.mp hi
    refine .inl ⟨i, rfl, by omega, by omega, by simpa using hp, fun j h1 h2 hj => ?_⟩
    have hsorted : (List.range' 1 25).Pairwise (· < ·) := List.pairwise_lt_range'
    have hjm : j ∈ List.range' 1 25 := by simp [List.mem_range'_1]; omega
    rw [hl] at hjm hsorted
    rcases List.mem_append.mp hjm with hpre | hpost
    · have := hn j hpre; simp [hj] at this
    · have hmem := (List.pairwise_append.mp hsorted).2.1
      rcases List.mem_cons.mp hpost with rfl | hpost
      · omega
      · have := (List.pairwise_cons.mp hmem).1 j hpost; omega

/-- The reduction of the operands changes no determinant residue (R8). -/
theorem det26_eq (s : State) :
    det26 (matrixOperand s) = (s.ma.toInt * s.md.toInt - s.mb.toInt * s.mc.toInt) % 26 := by
  simp [det26, matrixOperand, residue, sint32, Int.sub_emod, Int.mul_emod]

/-- One entry of the scaled adjugate, whatever representative of its factor is taken. -/
theorem residue_mul (k v : Int) : residue (k * residue v) = residue (k * v) := by simp [residue, Int.mul_emod]

theorem residue_mul_neg (k v : Int) : residue (k * -residue v) = residue (k * -v) := by
  have := residue_mul k v
  unfold residue at *
  have h1 : k * -(v % 26) = -(k * (v % 26)) := by ring
  have h2 : k * -v = -(k * v) := by ring
  rw [h1, h2]
  omega

end Sys2Proof.Machine
end

