-- ==== Sys2Proof/Laws/Decode.lean ====
section
/-! SUPPORT. The address map and the decoder, each said once. -/

namespace Sys2Proof

theorem mem_all (n : Name) : n ∈ Name.all := by
  cases n with
  | reg r => cases r <;> decide
  | cmd | txin | txout | dgout | ilen | llen | dgcnt => decide

/-- No two mapped words share an address (R34). -/
theorem addr_injective (n m : Name) (h : n.addr = m.addr) : n = m := by
  have key : ∀ n ∈ Name.all, ∀ m ∈ Name.all, n.addr = m.addr → n = m := by decide
  exact key n (mem_all n) m (mem_all m) h

/-- Reading the map backwards gives the word at the address. -/
theorem ofAddr_iff (a : Addr) (n : Name) : Name.ofAddr a = some n ↔ n.addr = a := by
  constructor
  · intro h
    simpa using List.find?_some h
  · rintro rfl
    have hs : (Name.all.find? fun m => m.addr == n.addr).isSome := by
      rw [List.find?_isSome]; exact ⟨n, mem_all n, by simp⟩
    obtain ⟨m, hm⟩ := Option.isSome_iff_exists.mp hs
    have he : m.addr = n.addr := by simpa using List.find?_some hm
    rw [Name.ofAddr, hm, addr_injective m n he]

/-- Every mapped address is word-aligned (R63, R64). -/
theorem addr_aligned (n : Name) : n.addr.extractLsb' 0 2 = 0 := by
  have key : ∀ n ∈ Name.all, n.addr.extractLsb' 0 2 = 0#2 := by decide
  exact key n (mem_all n)

/-- The checks (1) to (3) of R69 together: the access reaches the word at its address, if it takes the direction. -/
theorem check_target_iff (a : Access) (n : Name) : a.check = .target n ↔ n.addr = a.addr ∧ a.allowed n = true := by
  constructor
  · intro h
    unfold Access.check at h
    split at h
    · cases h
    · split at h
      · cases h
      · rename_i m hm
        split at h
        · rename_i ha
          cases h
          exact ⟨(ofAddr_iff _ _).mp hm, ha⟩
        · cases h
  · rintro ⟨h1, h2⟩
    have hm := (ofAddr_iff a.addr n).mpr h1
    have ha : a.addr.extractLsb' 0 2 = 0 := h1 ▸ addr_aligned n
    simp [Access.check, ha, hm, h2]

/-- A write to `CMD` is a command (R32, R90). -/
theorem decode_command (w : Word) : decode (.write 0x00 w) = decodeCommand w := rfl

/-- A write elsewhere than `CMD` and `TXIN` is no instruction of the table (R98). -/
theorem decode_other_write (x : Addr) (w : Word) (h1 : x ≠ 0x00) (h2 : x ≠ 0x40) :
    decode (.write x w) = .reject .notAnInstruction := by
  simp only [decode]
  rw [if_neg (show ¬ x = Name.cmd.addr from h1), if_neg (show ¬ x = Name.txin.addr from h2)]

/-- A read elsewhere than `TXOUT` and `DGOUT` is no instruction of the table (R98). -/
theorem decode_other_read (x : Addr) (h1 : x ≠ 0x44) (h2 : x ≠ 0x48) :
    decode (.read x) = .reject .notAnInstruction := by
  simp only [decode]
  rw [if_neg (show ¬ x = Name.txout.addr from h1), if_neg (show ¬ x = Name.dgout.addr from h2)]

/-- A command word is put together from its three fields (R90). -/
theorem word_of_fields (w : Word) : w = (rsvField w ++ optField w) ++ opField w := by
  apply BitVec.eq_of_getLsbD_eq
  intro i hi
  simp only [rsvField, optField, opField, BitVec.getLsbD_append, BitVec.getLsbD_extractLsb']
  by_cases h1 : i < 8
  · simp [h1]
  · by_cases h2 : i - 8 < 8
    · simp [h1, h2, show 8 + (i - 8) = i by omega]
    · simp [h1, h2, show i - 8 - 8 < 16 by omega, show 16 + (i - 8 - 8) = i by omega]

/-- The encoder writes each row of the opcode table back as its word, with `RSV` and `OPT` 0 (R92). -/
theorem table_encode : ∀ row ∈ opcodeTable, encode row.2 = .write Name.cmd.addr (commandWord 0 row.1) := by decide

/-- So it does for whatever a search of the table finds. -/
theorem lookup_encode (op : BitVec 8) (i : Instr) (h : opcodeTable.lookup op = some i) :
    encode i = .write Name.cmd.addr (commandWord 0 op) := by
  obtain ⟨before, later, hsplit, -⟩ := List.lookup_eq_some_iff.mp h
  exact table_encode (op, i) (hsplit ▸ List.mem_append_right before (List.mem_cons_self ..))

/-- What a legal command word looks like: the word of the instruction it spells. -/
theorem decodeCommand_instr (w : Word) (i : Instr) (h : decodeCommand w = .instr i) :
    encode i = .write Name.cmd.addr w := by
  have hw := word_of_fields w
  unfold decodeCommand at h
  split at h
  · cases h
  · rename_i hr
    have hr : rsvField w = 0 := by simpa using hr
    rw [hr] at hw
    split at h
    · rename_i hop
      rw [hop] at hw
      split at h
      · cases h
      · rename_i ho
        have ho : (optField w).extractLsb' 1 7 = 0 := by simpa using ho
        have key : ∀ o : BitVec 8, o.extractLsb' 1 7 = 0 → (o.getLsbD 0 = true ∧ o = 1) ∨ (o.getLsbD 0 = false ∧ o = 0) := by
          decide
        rcases key _ ho with ⟨hb, ho⟩ | ⟨hb, ho⟩
        · rw [hb] at h; cases h; rw [hw, ho]; decide
        · rw [hb] at h; cases h; rw [hw, ho]; decide
    · split at h
      · cases h
      · rename_i _ ho
        have ho : optField w = 0 := by simpa using ho
        rw [ho] at hw
        split at h
        · rename_i j hj
          cases h
          rw [hw]
          exact lookup_encode _ _ hj
        · cases h

/-- A command never reads as a port. -/
theorem decodeCommand_reject (w : Word) (why : Reject) (h : decodeCommand w = .reject why) :
    why ≠ .notAnInstruction := by
  unfold decodeCommand at h
  repeat' split at h
  all_goals first | (cases h; done) | (cases h; decide)

end Sys2Proof
end

