-- ==== Sys2Proof/Laws/Flags.lean ====
section
/-! SUPPORT. What the status computations do to each field of `STATUS`. -/

namespace Sys2Proof.Machine

/-- Two words agree once their bits do; the bit laws below are checked bit by bit. -/
theorem word_ext (v w : Word) (h : ∀ i : Fin 32, v.getLsbD i = w.getLsbD i) : v = w :=
  BitVec.eq_of_getLsbD_eq fun i hi => h ⟨i, hi⟩

/-- The bits of a word after `STATUS.RC <- rc`. -/
theorem setResultCode_bit (rc : ResultCode) (w : Word) (i : Nat) (h : i < 32) :
    (setResultCode rc w).getLsbD i = if i < 4 then rc.code.getLsbD i else w.getLsbD i := by
  have hm : ∀ i : Fin 32, (0xFFFFFFF0#32).getLsbD i = !decide (i.val < 4) := by decide
  have hm := hm ⟨i, h⟩
  simp only [setResultCode, BitVec.getLsbD_or, BitVec.getLsbD_and, BitVec.getLsbD_setWidth, hm, h]
  by_cases h4 : i < 4
  · simp [h4]
  · simp [h4, BitVec.getLsbD_of_ge rc.code i (by omega)]

/-- The bits of a word after a fault. -/
theorem setFaultBit_bit (f : FaultBit) (w : Word) (i : Nat) (h : i < 32) :
    (setFaultBit f w).getLsbD i = (w.getLsbD i || decide (f.bit = i)) := by
  simp [setFaultBit, h, eq_comm]

/-- The bits of a word after `CLRF`. -/
theorem clearFaultBits_bit (w : Word) (i : Nat) (h : i < 32) :
    (clearFaultBits w).getLsbD i = (w.getLsbD i && !(decide (8 ≤ i) && decide (i ≤ 12))) := by
  have hm : ∀ i : Fin 32, (0xFFFFE0FF#32).getLsbD i = !(decide (8 ≤ i.val) && decide (i.val ≤ 12)) := by decide
  have hm := hm ⟨i, h⟩
  simp only [clearFaultBits, BitVec.getLsbD_and, hm]

theorem bit_lt (f : FaultBit) : f.bit < 32 := by cases f <;> decide

theorem bit_ge (f : FaultBit) : 8 ≤ f.bit := by cases f <;> decide

theorem bit_le (f : FaultBit) : f.bit ≤ 12 := by cases f <;> decide

theorem bit_injective (f g : FaultBit) : f.bit = g.bit ↔ f = g := by cases f <;> cases g <;> decide

@[simp] theorem rc_setResultCode (rc : ResultCode) (w : Word) : rcField (setResultCode rc w) = rc.code := by
  apply BitVec.eq_of_getLsbD_eq
  intro i hi
  simp [rcField, setResultCode_bit rc w i (by omega), hi]

@[simp] theorem fault_setResultCode (rc : ResultCode) (f : FaultBit) (w : Word) :
    faultField f (setResultCode rc w) = faultField f w := by
  have := bit_ge f
  simp [faultField, setResultCode_bit rc w f.bit (bit_lt f), show ¬ f.bit < 4 by omega]

@[simp] theorem rc_setFaultBit (f : FaultBit) (w : Word) : rcField (setFaultBit f w) = rcField w := by
  apply BitVec.eq_of_getLsbD_eq
  intro i hi
  have := bit_ge f
  simp [rcField, setFaultBit_bit f w i (by omega), hi, show ¬ f.bit = i by omega]

@[simp] theorem fault_setFaultBit (f g : FaultBit) (w : Word) :
    faultField f (setFaultBit g w) = (faultField f w || decide (g = f)) := by
  simp [faultField, setFaultBit_bit g w f.bit (bit_lt f), bit_injective]

@[simp] theorem rc_clearFaultBits (w : Word) : rcField (clearFaultBits w) = rcField w := by
  apply BitVec.eq_of_getLsbD_eq
  intro i hi
  simp [rcField, clearFaultBits_bit w i (by omega), hi, show ¬ 8 ≤ i by omega]

@[simp] theorem fault_clearFaultBits (f : FaultBit) (w : Word) : faultField f (clearFaultBits w) = false := by
  simp [faultField, clearFaultBits_bit w f.bit (bit_lt f), bit_ge f, bit_le f]

/-! ## Under a mask: what stays of the word -/

theorem setResultCode_outside (rc : ResultCode) (w : Word) :
    setResultCode rc w &&& ~~~rcBits = w &&& ~~~rcBits := by
  have hm : ∀ i : Fin 32, rcBits.getLsbD i = decide (i.val < 4) := by decide
  apply word_ext
  intro i
  simp only [BitVec.getLsbD_and, BitVec.getLsbD_not, hm, setResultCode_bit rc w i i.isLt]
  by_cases h : i.val < 4 <;> simp [h]

theorem setFaultBit_outside (f : FaultBit) (w : Word) :
    setFaultBit f w &&& ~~~BitVec.twoPow 32 f.bit = w &&& ~~~BitVec.twoPow 32 f.bit := by
  apply word_ext
  intro i
  simp only [BitVec.getLsbD_and, BitVec.getLsbD_not, BitVec.getLsbD_twoPow, setFaultBit_bit f w i i.isLt]
  by_cases h : f.bit = i.val <;> simp [h]

theorem clearFaultBits_outside (w : Word) : clearFaultBits w &&& ~~~faultBits = w &&& ~~~faultBits := by
  have hm : ∀ i : Fin 32, faultBits.getLsbD i = (decide (8 ≤ i.val) && decide (i.val ≤ 12)) := by decide
  apply word_ext
  intro i
  simp only [BitVec.getLsbD_and, BitVec.getLsbD_not, hm, clearFaultBits_bit w i i.isLt]
  by_cases h : 8 ≤ i.val <;> by_cases h' : i.val ≤ 12 <;> simp [h, h']

/-- A mask passes through a wider one. -/
theorem and_mask (w m n : Word) (h : n &&& m = m) : w &&& m = w &&& n &&& m := by rw [BitVec.and_assoc, h]

/-- The unnamed bits of `STATUS` stay 0 (R27) under each of the three computations. -/
theorem unnamed_setResultCode (rc : ResultCode) (w : Word) (h : w &&& ~~~statusNamed = 0) :
    setResultCode rc w &&& ~~~statusNamed = 0 := by
  have hn : ~~~rcBits &&& ~~~statusNamed = ~~~statusNamed := by decide
  rw [and_mask _ _ _ hn, setResultCode_outside, ← and_mask _ _ _ hn, h]

theorem unnamed_setFaultBit (f : FaultBit) (w : Word) (h : w &&& ~~~statusNamed = 0) :
    setFaultBit f w &&& ~~~statusNamed = 0 := by
  have hn : ~~~BitVec.twoPow 32 f.bit &&& ~~~statusNamed = ~~~statusNamed := by cases f <;> decide
  rw [and_mask _ _ _ hn, setFaultBit_outside, ← and_mask _ _ _ hn, h]

theorem unnamed_clearFaultBits (w : Word) (h : w &&& ~~~statusNamed = 0) :
    clearFaultBits w &&& ~~~statusNamed = 0 := by
  have hn : ~~~faultBits &&& ~~~statusNamed = ~~~statusNamed := by decide
  rw [and_mask _ _ _ hn, clearFaultBits_outside, ← and_mask _ _ _ hn, h]

/-- Every result code is 0 to 4 (R27). -/
theorem code_le (rc : ResultCode) : rc.code.toNat ≤ 4 := by cases rc <;> decide

end Sys2Proof.Machine
end

