-- ==== Sys2Proof/Laws/State.lean ====
section
/-! SUPPORT. What each update does to each field: one lemma per field, so that no later proof unfolds a record
update. -/

namespace Sys2Proof.Machine

/-! ## Registers through `get` and `set` -/

@[simp] theorem get_set (s : State) (r q : Reg) (w : Word) :
    (s.set r w).get q = if q = r then w else s.get q := by
  cases r <;> cases q <;> rfl

theorem get_set_same (s : State) (r : Reg) (w : Word) : (s.set r w).get r = w := by simp

theorem get_set_other (s : State) (r q : Reg) (w : Word) (h : q ≠ r) : (s.set r w).get q = s.get q := by simp [h]

/-- Two states with the same registers, buffers and lists are the same state. -/
theorem state_ext (s t : State) (hr : ∀ r, s.get r = t.get r) (hi : s.ibuf = t.ibuf) (hl : s.lbuf = t.lbuf)
    (hc : s.caps = t.caps) (hp : s.pending = t.pending) (hv : s.returned = t.returned) : s = t := by
  cases s; cases t
  have h := fun r => hr r
  simp only [State.mk.injEq]
  exact ⟨h .status, h .ctrl, h .opa, h .opb, h .res, h .ma, h .mb, h .mc, h .md, h .det, h .dinv, h .inva, h .invb,
    h .invc, h .invd, hi, hl, hc, hp, hv⟩

@[simp] theorem get_status (s : State) : s.get .status = s.status := (rfl)
@[simp] theorem get_ctrl (s : State) : s.get .ctrl = s.ctrl := (rfl)
@[simp] theorem get_opa (s : State) : s.get .opa = s.opa := (rfl)
@[simp] theorem get_opb (s : State) : s.get .opb = s.opb := (rfl)
@[simp] theorem get_res (s : State) : s.get .res = s.res := (rfl)
@[simp] theorem get_ma (s : State) : s.get .ma = s.ma := (rfl)
@[simp] theorem get_mb (s : State) : s.get .mb = s.mb := (rfl)
@[simp] theorem get_mc (s : State) : s.get .mc = s.mc := (rfl)
@[simp] theorem get_md (s : State) : s.get .md = s.md := (rfl)
@[simp] theorem get_det (s : State) : s.get .det = s.det := (rfl)
@[simp] theorem get_dinv (s : State) : s.get .dinv = s.dinv := (rfl)
@[simp] theorem get_inva (s : State) : s.get .inva = s.inva := (rfl)
@[simp] theorem get_invb (s : State) : s.get .invb = s.invb := (rfl)
@[simp] theorem get_invc (s : State) : s.get .invc = s.invc := (rfl)
@[simp] theorem get_invd (s : State) : s.get .invd = s.invd := (rfl)

/-! ## `set` -/

@[simp] theorem set_status (s : State) (r : Reg) (w : Word) :
    (s.set r w).status = if r = .status then w else s.status := by cases r <;> rfl
@[simp] theorem set_ctrl (s : State) (r : Reg) (w : Word) :
    (s.set r w).ctrl = if r = .ctrl then w else s.ctrl := by cases r <;> rfl
@[simp] theorem set_opa (s : State) (r : Reg) (w : Word) :
    (s.set r w).opa = if r = .opa then w else s.opa := by cases r <;> rfl
@[simp] theorem set_opb (s : State) (r : Reg) (w : Word) :
    (s.set r w).opb = if r = .opb then w else s.opb := by cases r <;> rfl
@[simp] theorem set_res (s : State) (r : Reg) (w : Word) :
    (s.set r w).res = if r = .res then w else s.res := by cases r <;> rfl
@[simp] theorem set_ma (s : State) (r : Reg) (w : Word) :
    (s.set r w).ma = if r = .ma then w else s.ma := by cases r <;> rfl
@[simp] theorem set_mb (s : State) (r : Reg) (w : Word) :
    (s.set r w).mb = if r = .mb then w else s.mb := by cases r <;> rfl
@[simp] theorem set_mc (s : State) (r : Reg) (w : Word) :
    (s.set r w).mc = if r = .mc then w else s.mc := by cases r <;> rfl
@[simp] theorem set_md (s : State) (r : Reg) (w : Word) :
    (s.set r w).md = if r = .md then w else s.md := by cases r <;> rfl
@[simp] theorem set_det (s : State) (r : Reg) (w : Word) :
    (s.set r w).det = if r = .det then w else s.det := by cases r <;> rfl
@[simp] theorem set_dinv (s : State) (r : Reg) (w : Word) :
    (s.set r w).dinv = if r = .dinv then w else s.dinv := by cases r <;> rfl
@[simp] theorem set_inva (s : State) (r : Reg) (w : Word) :
    (s.set r w).inva = if r = .inva then w else s.inva := by cases r <;> rfl
@[simp] theorem set_invb (s : State) (r : Reg) (w : Word) :
    (s.set r w).invb = if r = .invb then w else s.invb := by cases r <;> rfl
@[simp] theorem set_invc (s : State) (r : Reg) (w : Word) :
    (s.set r w).invc = if r = .invc then w else s.invc := by cases r <;> rfl
@[simp] theorem set_invd (s : State) (r : Reg) (w : Word) :
    (s.set r w).invd = if r = .invd then w else s.invd := by cases r <;> rfl
@[simp] theorem set_ibuf (s : State) (r : Reg) (w : Word) : (s.set r w).ibuf = s.ibuf := by cases r <;> rfl
@[simp] theorem set_lbuf (s : State) (r : Reg) (w : Word) : (s.set r w).lbuf = s.lbuf := by cases r <;> rfl
@[simp] theorem set_caps (s : State) (r : Reg) (w : Word) : (s.set r w).caps = s.caps := by cases r <;> rfl
@[simp] theorem set_pending (s : State) (r : Reg) (w : Word) : (s.set r w).pending = s.pending := by cases r <;> rfl
@[simp] theorem set_returned (s : State) (r : Reg) (w : Word) : (s.set r w).returned = s.returned := by cases r <;> rfl

/-! ## `setIbuf` -/

@[simp] theorem setIbuf_get (s : State) (x : List Byte) (r : Reg) : (s.setIbuf x).get r = s.get r := by cases r <;> rfl
@[simp] theorem setIbuf_status (s : State) (x : List Byte) : (s.setIbuf x).status = s.status := (rfl)
@[simp] theorem setIbuf_ctrl (s : State) (x : List Byte) : (s.setIbuf x).ctrl = s.ctrl := (rfl)
@[simp] theorem setIbuf_opa (s : State) (x : List Byte) : (s.setIbuf x).opa = s.opa := (rfl)
@[simp] theorem setIbuf_opb (s : State) (x : List Byte) : (s.setIbuf x).opb = s.opb := (rfl)
@[simp] theorem setIbuf_res (s : State) (x : List Byte) : (s.setIbuf x).res = s.res := (rfl)
@[simp] theorem setIbuf_ma (s : State) (x : List Byte) : (s.setIbuf x).ma = s.ma := (rfl)
@[simp] theorem setIbuf_mb (s : State) (x : List Byte) : (s.setIbuf x).mb = s.mb := (rfl)
@[simp] theorem setIbuf_mc (s : State) (x : List Byte) : (s.setIbuf x).mc = s.mc := (rfl)
@[simp] theorem setIbuf_md (s : State) (x : List Byte) : (s.setIbuf x).md = s.md := (rfl)
@[simp] theorem setIbuf_det (s : State) (x : List Byte) : (s.setIbuf x).det = s.det := (rfl)
@[simp] theorem setIbuf_dinv (s : State) (x : List Byte) : (s.setIbuf x).dinv = s.dinv := (rfl)
@[simp] theorem setIbuf_inva (s : State) (x : List Byte) : (s.setIbuf x).inva = s.inva := (rfl)
@[simp] theorem setIbuf_invb (s : State) (x : List Byte) : (s.setIbuf x).invb = s.invb := (rfl)
@[simp] theorem setIbuf_invc (s : State) (x : List Byte) : (s.setIbuf x).invc = s.invc := (rfl)
@[simp] theorem setIbuf_invd (s : State) (x : List Byte) : (s.setIbuf x).invd = s.invd := (rfl)
@[simp] theorem setIbuf_ibuf (s : State) (x : List Byte) : (s.setIbuf x).ibuf = x := (rfl)
@[simp] theorem setIbuf_lbuf (s : State) (x : List Byte) : (s.setIbuf x).lbuf = s.lbuf := (rfl)
@[simp] theorem setIbuf_caps (s : State) (x : List Byte) : (s.setIbuf x).caps = s.caps := (rfl)
@[simp] theorem setIbuf_pending (s : State) (x : List Byte) : (s.setIbuf x).pending = s.pending := (rfl)
@[simp] theorem setIbuf_returned (s : State) (x : List Byte) : (s.setIbuf x).returned = s.returned := (rfl)

/-! ## `setLbuf` -/

@[simp] theorem setLbuf_get (s : State) (x : List Letter) (r : Reg) : (s.setLbuf x).get r = s.get r := by cases r <;> rfl
@[simp] theorem setLbuf_status (s : State) (x : List Letter) : (s.setLbuf x).status = s.status := (rfl)
@[simp] theorem setLbuf_ctrl (s : State) (x : List Letter) : (s.setLbuf x).ctrl = s.ctrl := (rfl)
@[simp] theorem setLbuf_opa (s : State) (x : List Letter) : (s.setLbuf x).opa = s.opa := (rfl)
@[simp] theorem setLbuf_opb (s : State) (x : List Letter) : (s.setLbuf x).opb = s.opb := (rfl)
@[simp] theorem setLbuf_res (s : State) (x : List Letter) : (s.setLbuf x).res = s.res := (rfl)
@[simp] theorem setLbuf_ma (s : State) (x : List Letter) : (s.setLbuf x).ma = s.ma := (rfl)
@[simp] theorem setLbuf_mb (s : State) (x : List Letter) : (s.setLbuf x).mb = s.mb := (rfl)
@[simp] theorem setLbuf_mc (s : State) (x : List Letter) : (s.setLbuf x).mc = s.mc := (rfl)
@[simp] theorem setLbuf_md (s : State) (x : List Letter) : (s.setLbuf x).md = s.md := (rfl)
@[simp] theorem setLbuf_det (s : State) (x : List Letter) : (s.setLbuf x).det = s.det := (rfl)
@[simp] theorem setLbuf_dinv (s : State) (x : List Letter) : (s.setLbuf x).dinv = s.dinv := (rfl)
@[simp] theorem setLbuf_inva (s : State) (x : List Letter) : (s.setLbuf x).inva = s.inva := (rfl)
@[simp] theorem setLbuf_invb (s : State) (x : List Letter) : (s.setLbuf x).invb = s.invb := (rfl)
@[simp] theorem setLbuf_invc (s : State) (x : List Letter) : (s.setLbuf x).invc = s.invc := (rfl)
@[simp] theorem setLbuf_invd (s : State) (x : List Letter) : (s.setLbuf x).invd = s.invd := (rfl)
@[simp] theorem setLbuf_ibuf (s : State) (x : List Letter) : (s.setLbuf x).ibuf = s.ibuf := (rfl)
@[simp] theorem setLbuf_lbuf (s : State) (x : List Letter) : (s.setLbuf x).lbuf = x := (rfl)
@[simp] theorem setLbuf_caps (s : State) (x : List Letter) : (s.setLbuf x).caps = s.caps := (rfl)
@[simp] theorem setLbuf_pending (s : State) (x : List Letter) : (s.setLbuf x).pending = s.pending := (rfl)
@[simp] theorem setLbuf_returned (s : State) (x : List Letter) : (s.setLbuf x).returned = s.returned := (rfl)

/-! ## `setPending` -/

@[simp] theorem setPending_get (s : State) (x : List Event) (r : Reg) : (s.setPending x).get r = s.get r := by cases r <;> rfl
@[simp] theorem setPending_status (s : State) (x : List Event) : (s.setPending x).status = s.status := (rfl)
@[simp] theorem setPending_ctrl (s : State) (x : List Event) : (s.setPending x).ctrl = s.ctrl := (rfl)
@[simp] theorem setPending_opa (s : State) (x : List Event) : (s.setPending x).opa = s.opa := (rfl)
@[simp] theorem setPending_opb (s : State) (x : List Event) : (s.setPending x).opb = s.opb := (rfl)
@[simp] theorem setPending_res (s : State) (x : List Event) : (s.setPending x).res = s.res := (rfl)
@[simp] theorem setPending_ma (s : State) (x : List Event) : (s.setPending x).ma = s.ma := (rfl)
@[simp] theorem setPending_mb (s : State) (x : List Event) : (s.setPending x).mb = s.mb := (rfl)
@[simp] theorem setPending_mc (s : State) (x : List Event) : (s.setPending x).mc = s.mc := (rfl)
@[simp] theorem setPending_md (s : State) (x : List Event) : (s.setPending x).md = s.md := (rfl)
@[simp] theorem setPending_det (s : State) (x : List Event) : (s.setPending x).det = s.det := (rfl)
@[simp] theorem setPending_dinv (s : State) (x : List Event) : (s.setPending x).dinv = s.dinv := (rfl)
@[simp] theorem setPending_inva (s : State) (x : List Event) : (s.setPending x).inva = s.inva := (rfl)
@[simp] theorem setPending_invb (s : State) (x : List Event) : (s.setPending x).invb = s.invb := (rfl)
@[simp] theorem setPending_invc (s : State) (x : List Event) : (s.setPending x).invc = s.invc := (rfl)
@[simp] theorem setPending_invd (s : State) (x : List Event) : (s.setPending x).invd = s.invd := (rfl)
@[simp] theorem setPending_ibuf (s : State) (x : List Event) : (s.setPending x).ibuf = s.ibuf := (rfl)
@[simp] theorem setPending_lbuf (s : State) (x : List Event) : (s.setPending x).lbuf = s.lbuf := (rfl)
@[simp] theorem setPending_caps (s : State) (x : List Event) : (s.setPending x).caps = s.caps := (rfl)
@[simp] theorem setPending_pending (s : State) (x : List Event) : (s.setPending x).pending = x := (rfl)
@[simp] theorem setPending_returned (s : State) (x : List Event) : (s.setPending x).returned = s.returned := (rfl)

/-! ## `issue` -/

@[simp] theorem issue_get (s : State) (x : Event) (r : Reg) : (s.issue x).get r = s.get r := by cases r <;> rfl
@[simp] theorem issue_status (s : State) (x : Event) : (s.issue x).status = s.status := (rfl)
@[simp] theorem issue_ctrl (s : State) (x : Event) : (s.issue x).ctrl = s.ctrl := (rfl)
@[simp] theorem issue_opa (s : State) (x : Event) : (s.issue x).opa = s.opa := (rfl)
@[simp] theorem issue_opb (s : State) (x : Event) : (s.issue x).opb = s.opb := (rfl)
@[simp] theorem issue_res (s : State) (x : Event) : (s.issue x).res = s.res := (rfl)
@[simp] theorem issue_ma (s : State) (x : Event) : (s.issue x).ma = s.ma := (rfl)
@[simp] theorem issue_mb (s : State) (x : Event) : (s.issue x).mb = s.mb := (rfl)
@[simp] theorem issue_mc (s : State) (x : Event) : (s.issue x).mc = s.mc := (rfl)
@[simp] theorem issue_md (s : State) (x : Event) : (s.issue x).md = s.md := (rfl)
@[simp] theorem issue_det (s : State) (x : Event) : (s.issue x).det = s.det := (rfl)
@[simp] theorem issue_dinv (s : State) (x : Event) : (s.issue x).dinv = s.dinv := (rfl)
@[simp] theorem issue_inva (s : State) (x : Event) : (s.issue x).inva = s.inva := (rfl)
@[simp] theorem issue_invb (s : State) (x : Event) : (s.issue x).invb = s.invb := (rfl)
@[simp] theorem issue_invc (s : State) (x : Event) : (s.issue x).invc = s.invc := (rfl)
@[simp] theorem issue_invd (s : State) (x : Event) : (s.issue x).invd = s.invd := (rfl)
@[simp] theorem issue_ibuf (s : State) (x : Event) : (s.issue x).ibuf = s.ibuf := (rfl)
@[simp] theorem issue_lbuf (s : State) (x : Event) : (s.issue x).lbuf = s.lbuf := (rfl)
@[simp] theorem issue_caps (s : State) (x : Event) : (s.issue x).caps = s.caps := (rfl)
@[simp] theorem issue_pending (s : State) (x : Event) : (s.issue x).pending = x :: s.pending := (rfl)
@[simp] theorem issue_returned (s : State) (x : Event) : (s.issue x).returned = s.returned := (rfl)

/-! ## `deliver` -/

@[simp] theorem deliver_get (s : State) (x : Word) (r : Reg) : (s.deliver x).get r = s.get r := by cases r <;> rfl
@[simp] theorem deliver_status (s : State) (x : Word) : (s.deliver x).status = s.status := (rfl)
@[simp] theorem deliver_ctrl (s : State) (x : Word) : (s.deliver x).ctrl = s.ctrl := (rfl)
@[simp] theorem deliver_opa (s : State) (x : Word) : (s.deliver x).opa = s.opa := (rfl)
@[simp] theorem deliver_opb (s : State) (x : Word) : (s.deliver x).opb = s.opb := (rfl)
@[simp] theorem deliver_res (s : State) (x : Word) : (s.deliver x).res = s.res := (rfl)
@[simp] theorem deliver_ma (s : State) (x : Word) : (s.deliver x).ma = s.ma := (rfl)
@[simp] theorem deliver_mb (s : State) (x : Word) : (s.deliver x).mb = s.mb := (rfl)
@[simp] theorem deliver_mc (s : State) (x : Word) : (s.deliver x).mc = s.mc := (rfl)
@[simp] theorem deliver_md (s : State) (x : Word) : (s.deliver x).md = s.md := (rfl)
@[simp] theorem deliver_det (s : State) (x : Word) : (s.deliver x).det = s.det := (rfl)
@[simp] theorem deliver_dinv (s : State) (x : Word) : (s.deliver x).dinv = s.dinv := (rfl)
@[simp] theorem deliver_inva (s : State) (x : Word) : (s.deliver x).inva = s.inva := (rfl)
@[simp] theorem deliver_invb (s : State) (x : Word) : (s.deliver x).invb = s.invb := (rfl)
@[simp] theorem deliver_invc (s : State) (x : Word) : (s.deliver x).invc = s.invc := (rfl)
@[simp] theorem deliver_invd (s : State) (x : Word) : (s.deliver x).invd = s.invd := (rfl)
@[simp] theorem deliver_ibuf (s : State) (x : Word) : (s.deliver x).ibuf = s.ibuf := (rfl)
@[simp] theorem deliver_lbuf (s : State) (x : Word) : (s.deliver x).lbuf = s.lbuf := (rfl)
@[simp] theorem deliver_caps (s : State) (x : Word) : (s.deliver x).caps = s.caps := (rfl)
@[simp] theorem deliver_pending (s : State) (x : Word) : (s.deliver x).pending = s.pending := (rfl)
@[simp] theorem deliver_returned (s : State) (x : Word) : (s.deliver x).returned = s.returned ++ [x] := (rfl)

/-! ## `finish` -/

@[simp] theorem finish_get (s : State) (x : ResultCode) (r : Reg) :
    (s.finish x).get r = if r = .status then setResultCode x s.status else s.get r := by cases r <;> rfl
@[simp] theorem finish_status (s : State) (x : ResultCode) : (s.finish x).status = setResultCode x s.status := (rfl)
@[simp] theorem finish_ctrl (s : State) (x : ResultCode) : (s.finish x).ctrl = s.ctrl := (rfl)
@[simp] theorem finish_opa (s : State) (x : ResultCode) : (s.finish x).opa = s.opa := (rfl)
@[simp] theorem finish_opb (s : State) (x : ResultCode) : (s.finish x).opb = s.opb := (rfl)
@[simp] theorem finish_res (s : State) (x : ResultCode) : (s.finish x).res = s.res := (rfl)
@[simp] theorem finish_ma (s : State) (x : ResultCode) : (s.finish x).ma = s.ma := (rfl)
@[simp] theorem finish_mb (s : State) (x : ResultCode) : (s.finish x).mb = s.mb := (rfl)
@[simp] theorem finish_mc (s : State) (x : ResultCode) : (s.finish x).mc = s.mc := (rfl)
@[simp] theorem finish_md (s : State) (x : ResultCode) : (s.finish x).md = s.md := (rfl)
@[simp] theorem finish_det (s : State) (x : ResultCode) : (s.finish x).det = s.det := (rfl)
@[simp] theorem finish_dinv (s : State) (x : ResultCode) : (s.finish x).dinv = s.dinv := (rfl)
@[simp] theorem finish_inva (s : State) (x : ResultCode) : (s.finish x).inva = s.inva := (rfl)
@[simp] theorem finish_invb (s : State) (x : ResultCode) : (s.finish x).invb = s.invb := (rfl)
@[simp] theorem finish_invc (s : State) (x : ResultCode) : (s.finish x).invc = s.invc := (rfl)
@[simp] theorem finish_invd (s : State) (x : ResultCode) : (s.finish x).invd = s.invd := (rfl)
@[simp] theorem finish_ibuf (s : State) (x : ResultCode) : (s.finish x).ibuf = s.ibuf := (rfl)
@[simp] theorem finish_lbuf (s : State) (x : ResultCode) : (s.finish x).lbuf = s.lbuf := (rfl)
@[simp] theorem finish_caps (s : State) (x : ResultCode) : (s.finish x).caps = s.caps := (rfl)
@[simp] theorem finish_pending (s : State) (x : ResultCode) : (s.finish x).pending = s.pending := (rfl)
@[simp] theorem finish_returned (s : State) (x : ResultCode) : (s.finish x).returned = s.returned := (rfl)

/-! ## `raise` -/

@[simp] theorem raise_get (s : State) (x : FaultBit) (r : Reg) :
    (s.raise x).get r = if r = .status then setFaultBit x s.status else s.get r := by cases r <;> rfl
@[simp] theorem raise_status (s : State) (x : FaultBit) : (s.raise x).status = setFaultBit x s.status := (rfl)
@[simp] theorem raise_ctrl (s : State) (x : FaultBit) : (s.raise x).ctrl = s.ctrl := (rfl)
@[simp] theorem raise_opa (s : State) (x : FaultBit) : (s.raise x).opa = s.opa := (rfl)
@[simp] theorem raise_opb (s : State) (x : FaultBit) : (s.raise x).opb = s.opb := (rfl)
@[simp] theorem raise_res (s : State) (x : FaultBit) : (s.raise x).res = s.res := (rfl)
@[simp] theorem raise_ma (s : State) (x : FaultBit) : (s.raise x).ma = s.ma := (rfl)
@[simp] theorem raise_mb (s : State) (x : FaultBit) : (s.raise x).mb = s.mb := (rfl)
@[simp] theorem raise_mc (s : State) (x : FaultBit) : (s.raise x).mc = s.mc := (rfl)
@[simp] theorem raise_md (s : State) (x : FaultBit) : (s.raise x).md = s.md := (rfl)
@[simp] theorem raise_det (s : State) (x : FaultBit) : (s.raise x).det = s.det := (rfl)
@[simp] theorem raise_dinv (s : State) (x : FaultBit) : (s.raise x).dinv = s.dinv := (rfl)
@[simp] theorem raise_inva (s : State) (x : FaultBit) : (s.raise x).inva = s.inva := (rfl)
@[simp] theorem raise_invb (s : State) (x : FaultBit) : (s.raise x).invb = s.invb := (rfl)
@[simp] theorem raise_invc (s : State) (x : FaultBit) : (s.raise x).invc = s.invc := (rfl)
@[simp] theorem raise_invd (s : State) (x : FaultBit) : (s.raise x).invd = s.invd := (rfl)
@[simp] theorem raise_ibuf (s : State) (x : FaultBit) : (s.raise x).ibuf = s.ibuf := (rfl)
@[simp] theorem raise_lbuf (s : State) (x : FaultBit) : (s.raise x).lbuf = s.lbuf := (rfl)
@[simp] theorem raise_caps (s : State) (x : FaultBit) : (s.raise x).caps = s.caps := (rfl)
@[simp] theorem raise_pending (s : State) (x : FaultBit) : (s.raise x).pending = s.pending := (rfl)
@[simp] theorem raise_returned (s : State) (x : FaultBit) : (s.raise x).returned = s.returned := (rfl)

/-! ## `clearFaults` -/

@[simp] theorem clearFaults_get (s : State) (r : Reg) :
    (s.clearFaults).get r = if r = .status then clearFaultBits s.status else s.get r := by cases r <;> rfl
@[simp] theorem clearFaults_status (s : State) : (s.clearFaults).status = clearFaultBits s.status := (rfl)
@[simp] theorem clearFaults_ctrl (s : State) : (s.clearFaults).ctrl = s.ctrl := (rfl)
@[simp] theorem clearFaults_opa (s : State) : (s.clearFaults).opa = s.opa := (rfl)
@[simp] theorem clearFaults_opb (s : State) : (s.clearFaults).opb = s.opb := (rfl)
@[simp] theorem clearFaults_res (s : State) : (s.clearFaults).res = s.res := (rfl)
@[simp] theorem clearFaults_ma (s : State) : (s.clearFaults).ma = s.ma := (rfl)
@[simp] theorem clearFaults_mb (s : State) : (s.clearFaults).mb = s.mb := (rfl)
@[simp] theorem clearFaults_mc (s : State) : (s.clearFaults).mc = s.mc := (rfl)
@[simp] theorem clearFaults_md (s : State) : (s.clearFaults).md = s.md := (rfl)
@[simp] theorem clearFaults_det (s : State) : (s.clearFaults).det = s.det := (rfl)
@[simp] theorem clearFaults_dinv (s : State) : (s.clearFaults).dinv = s.dinv := (rfl)
@[simp] theorem clearFaults_inva (s : State) : (s.clearFaults).inva = s.inva := (rfl)
@[simp] theorem clearFaults_invb (s : State) : (s.clearFaults).invb = s.invb := (rfl)
@[simp] theorem clearFaults_invc (s : State) : (s.clearFaults).invc = s.invc := (rfl)
@[simp] theorem clearFaults_invd (s : State) : (s.clearFaults).invd = s.invd := (rfl)
@[simp] theorem clearFaults_ibuf (s : State) : (s.clearFaults).ibuf = s.ibuf := (rfl)
@[simp] theorem clearFaults_lbuf (s : State) : (s.clearFaults).lbuf = s.lbuf := (rfl)
@[simp] theorem clearFaults_caps (s : State) : (s.clearFaults).caps = s.caps := (rfl)
@[simp] theorem clearFaults_pending (s : State) : (s.clearFaults).pending = s.pending := (rfl)
@[simp] theorem clearFaults_returned (s : State) : (s.clearFaults).returned = s.returned := (rfl)

/-! ## `resetEdge` -/

@[simp] theorem resetEdge_get (s : State) (r : Reg) : s.resetEdge.get r = 0 := by cases r <;> rfl
@[simp] theorem resetEdge_status (s : State) : s.resetEdge.status = 0 := (rfl)
@[simp] theorem resetEdge_ctrl (s : State) : s.resetEdge.ctrl = 0 := (rfl)
@[simp] theorem resetEdge_opa (s : State) : s.resetEdge.opa = 0 := (rfl)
@[simp] theorem resetEdge_opb (s : State) : s.resetEdge.opb = 0 := (rfl)
@[simp] theorem resetEdge_res (s : State) : s.resetEdge.res = 0 := (rfl)
@[simp] theorem resetEdge_ma (s : State) : s.resetEdge.ma = 0 := (rfl)
@[simp] theorem resetEdge_mb (s : State) : s.resetEdge.mb = 0 := (rfl)
@[simp] theorem resetEdge_mc (s : State) : s.resetEdge.mc = 0 := (rfl)
@[simp] theorem resetEdge_md (s : State) : s.resetEdge.md = 0 := (rfl)
@[simp] theorem resetEdge_det (s : State) : s.resetEdge.det = 0 := (rfl)
@[simp] theorem resetEdge_dinv (s : State) : s.resetEdge.dinv = 0 := (rfl)
@[simp] theorem resetEdge_inva (s : State) : s.resetEdge.inva = 0 := (rfl)
@[simp] theorem resetEdge_invb (s : State) : s.resetEdge.invb = 0 := (rfl)
@[simp] theorem resetEdge_invc (s : State) : s.resetEdge.invc = 0 := (rfl)
@[simp] theorem resetEdge_invd (s : State) : s.resetEdge.invd = 0 := (rfl)
@[simp] theorem resetEdge_ibuf (s : State) : s.resetEdge.ibuf = [] := (rfl)
@[simp] theorem resetEdge_lbuf (s : State) : s.resetEdge.lbuf = [] := (rfl)
@[simp] theorem resetEdge_caps (s : State) : s.resetEdge.caps = s.caps := (rfl)
@[simp] theorem resetEdge_pending (s : State) : s.resetEdge.pending = s.pending := (rfl)
@[simp] theorem resetEdge_returned (s : State) : s.resetEdge.returned = s.returned := (rfl)

@[simp] theorem setPending_issue (s : State) (e : Event) : (s.issue e).setPending s.pending = s := (rfl)

end Sys2Proof.Machine
end

