-- ==== Sys2Proof/Laws/Frame.lean ====
section
/-! SUPPORT. The frame of each shared operation. -/

namespace Sys2Proof.Machine

theorem Frame.refl (rs : List Reg) (m : Word) (s : State) : Frame rs m s s :=
  ⟨fun _ _ _ => rfl, rfl, rfl, rfl⟩

theorem Frame.trans {rs : List Reg} {m : Word} {s t u : State} (h : Frame rs m s t) (k : Frame rs m t u) :
    Frame rs m s u :=
  ⟨fun r hr hn => (k.regs r hr hn).trans (h.regs r hr hn), k.status.trans h.status, k.caps.trans h.caps,
    k.pending.trans h.pending⟩

/-- A frame with more listed, or a wider mask, claims less. -/
theorem Frame.weaken {rs rs' : List Reg} {m m' : Word} {s t : State} (h : Frame rs m s t)
    (hr : ∀ r ∈ rs, r ∈ rs') (hm : ~~~m &&& ~~~m' = ~~~m') : Frame rs' m' s t :=
  ⟨fun r h1 h2 => h.regs r h1 fun h3 => h2 (hr r h3),
    by rw [and_mask _ _ _ hm, h.status, ← and_mask _ _ _ hm], h.caps, h.pending⟩

theorem frame_set {rs : List Reg} {m : Word} (s : State) (r : Reg) (w : Word) (hr : r ∈ rs) (hs : r ≠ .status) :
    Frame rs m s (s.set r w) :=
  ⟨fun q _ hq => by rw [get_set_other]; rintro rfl; exact hq hr, by simp [hs], by simp, by simp⟩

theorem frame_setIbuf {rs : List Reg} {m : Word} (s : State) (bs : List Byte) : Frame rs m s (s.setIbuf bs) :=
  ⟨fun _ _ _ => by simp, by simp, rfl, rfl⟩

theorem frame_setLbuf {rs : List Reg} {m : Word} (s : State) (ls : List Letter) : Frame rs m s (s.setLbuf ls) :=
  ⟨fun _ _ _ => by simp, by simp, rfl, rfl⟩

theorem frame_deliver {rs : List Reg} {m : Word} (s : State) (w : Word) : Frame rs m s (s.deliver w) :=
  ⟨fun _ _ _ => by simp, by simp, rfl, rfl⟩

theorem frame_finish {rs : List Reg} (s : State) (rc : ResultCode) : Frame rs rcBits s (s.finish rc) :=
  ⟨fun r hr _ => by simp [hr], by simp [setResultCode_outside], rfl, rfl⟩

theorem frame_raise {rs : List Reg} (s : State) (f : FaultBit) :
    Frame rs (BitVec.twoPow 32 f.bit) s (s.raise f) :=
  ⟨fun r hr _ => by simp [hr], setFaultBit_outside f s.status, rfl, rfl⟩

theorem frame_clearFaults {rs : List Reg} (s : State) : Frame rs faultBits s s.clearFaults :=
  ⟨fun r hr _ => by simp [hr], by simp [clearFaultBits_outside], rfl, rfl⟩

/-! ## The result code and the flags after each operation -/

@[simp] theorem finish_rc (s : State) (rc : ResultCode) : (s.finish rc).rc = rc.code := by simp [State.rc]

@[simp] theorem finish_flag (s : State) (rc : ResultCode) (f : FaultBit) : (s.finish rc).flag f = s.flag f := by
  simp [State.flag]

@[simp] theorem raise_rc (s : State) (f : FaultBit) : (s.raise f).rc = s.rc := by simp [State.rc]

@[simp] theorem raise_flag (s : State) (f g : FaultBit) :
    (s.raise f).flag g = (s.flag g || decide (f = g)) := by simp [State.flag]

@[simp] theorem clearFaults_rc (s : State) : s.clearFaults.rc = s.rc := by simp [State.rc]

@[simp] theorem clearFaults_flag (s : State) (f : FaultBit) : s.clearFaults.flag f = false := by simp [State.flag]

@[simp] theorem deliver_rc (s : State) (w : Word) : (s.deliver w).rc = s.rc := (rfl)

@[simp] theorem deliver_flag (s : State) (w : Word) (f : FaultBit) : (s.deliver w).flag f = s.flag f := (rfl)

@[simp] theorem setLbuf_rc (s : State) (ls : List Letter) : (s.setLbuf ls).rc = s.rc := (rfl)

@[simp] theorem setLbuf_flag (s : State) (ls : List Letter) (f : FaultBit) : (s.setLbuf ls).flag f = s.flag f := (rfl)

@[simp] theorem setIbuf_rc (s : State) (bs : List Byte) : (s.setIbuf bs).rc = s.rc := (rfl)

@[simp] theorem setIbuf_flag (s : State) (bs : List Byte) (f : FaultBit) : (s.setIbuf bs).flag f = s.flag f := (rfl)

theorem set_rc (s : State) (r : Reg) (w : Word) (h : r ≠ .status) : (s.set r w).rc = s.rc := by
  simp [State.rc, h]

theorem set_flag (s : State) (r : Reg) (w : Word) (f : FaultBit) (h : r ≠ .status) :
    (s.set r w).flag f = s.flag f := by simp [State.flag, h]

end Sys2Proof.Machine
end

