-- ==== Sys2Proof/Laws/PerInstr.lean ====
section
/-! SUPPORT. Statements about each instruction as syntax, one lemma per constructor. -/

namespace Sys2Proof.Laws.RoundTrip

/-- The transaction that issues an instruction is read back as that instruction, and stands at the address and in the
direction of the rule: `CMD` for the commands (R90), the ports for the rest (R98). -/
def Statement (i : Instr) : Prop :=
  i.wf = true ∧ decode (encode i) = .instr i ∧ ∃ n, (encode i).check = .target n ∧ ∀ r, n ≠ .reg r

theorem nop : Statement .nop := ⟨rfl, by decide, .cmd, by decide, by simp⟩
theorem gcd : Statement .gcd := ⟨rfl, by decide, .cmd, by decide, by simp⟩
theorem modinv : Statement .modinv := ⟨rfl, by decide, .cmd, by decide, by simp⟩
theorem mdet : Statement .mdet := ⟨rfl, by decide, .cmd, by decide, by simp⟩
theorem minv : Statement .minv := ⟨rfl, by decide, .cmd, by decide, by simp⟩
theorem tclr : Statement .tclr := ⟨rfl, by decide, .cmd, by decide, by simp⟩
theorem clean : Statement .clean := ⟨rfl, by decide, .cmd, by decide, by simp⟩
theorem cleanJ : Statement .cleanJ := ⟨rfl, by decide, .cmd, by decide, by simp⟩
theorem pade : Statement .pade := ⟨rfl, by decide, .cmd, by decide, by simp⟩
theorem pairx : Statement .pairx := ⟨rfl, by decide, .cmd, by decide, by simp⟩
theorem stripx : Statement .stripx := ⟨rfl, by decide, .cmd, by decide, by simp⟩
theorem unsep : Statement .unsep := ⟨rfl, by decide, .cmd, by decide, by simp⟩
theorem clrf : Statement .clrf := ⟨rfl, by decide, .cmd, by decide, by simp⟩
theorem txin (data : Word) : Statement (.txin data) := ⟨rfl, rfl, .txin, (check_target_iff _ _).mpr ⟨rfl, rfl⟩, by simp⟩
theorem txout : Statement .txout := ⟨rfl, by decide, .txout, by decide, by simp⟩
theorem dgout : Statement .dgout := ⟨rfl, by decide, .dgout, by decide, by simp⟩

end Sys2Proof.Laws.RoundTrip
end

