-- ==== Sys2Proof/Laws/Step.lean ====
section
/-! SUPPORT. What one step can do, said once. -/

namespace Sys2Proof.Machine

@[simp] theorem step_issue (s : State) (e : Event) : step (s.issue e) = happen e s := rfl

/-- The step with nothing to come. -/
theorem step_empty (s : State) (h : s.pending = []) : step s = .next s := by simp [step, advance, h]

/-- The step with an event to come. -/
theorem step_event (s : State) (e : Event) (rest : List Event) (h : s.pending = e :: rest) :
    step s = happen e (s.setPending rest) := by simp [step, advance, h]

@[simp] theorem happen_access (a : Access) (s : State) : happen (.access a) s = transact a s := rfl

@[simp] theorem happen_reset (s : State) : happen .reset s = .next s.resetEdge := rfl

@[simp] theorem happen_idle (s : State) : happen .idle s = .next s := rfl

@[simp] theorem happen_holdBroken (s : State) : happen .holdBroken s = .refused .holdBroken := rfl

theorem transact_instr (a : Access) (i : Instr) (s : State) (h : decode a = .instr i) : transact a s = exec i s := by
  simp [transact, h]

theorem transact_reject (a : Access) (why : Reject) (s : State) (h : decode a = .reject why) :
    transact a s = .next (rejected why a s) := by simp [transact, h]

/-- A rejected transaction by cases: an illegal command, a bad access, or a plain access to the word it reaches. -/
theorem rejected_cases (why : Reject) (a : Access) (s : State) :
    (why ≠ .notAnInstruction ∧ rejected why a s = s.illegalCommand) ∨
    (why = .notAnInstruction ∧ (∀ n, a.check ≠ .target n) ∧ rejected why a s = badAccess a s) ∨
    (why = .notAnInstruction ∧ ∃ n, a.check = .target n ∧ rejected why a s = plainAccess n a s) := by
  cases why <;> simp [rejected]
  cases h : a.check <;> simp

/-- Everything a transaction can do: run an instruction, refuse an illegal command word, fail the checks of R69, or
reach a word without one. -/
theorem transact_cases (a : Access) (s t : State) (h : transact a s = .next t) :
    (∃ i, decode a = .instr i ∧ exec i s = .next t) ∨
    (∃ w, a = .write 0x00 w ∧ t = s.illegalCommand) ∨
    (decode a = .reject .notAnInstruction ∧ t = badAccess a s) ∨
    (decode a = .reject .notAnInstruction ∧ ∃ n, a.check = .target n ∧ t = plainAccess n a s) := by
  cases hd : decode a with
  | instr i => rw [transact_instr a i s hd] at h; exact .inl ⟨i, rfl, h⟩
  | reject why =>
    rw [transact_reject a why s hd] at h
    cases h
    rcases rejected_cases why a s with ⟨hw, hr⟩ | ⟨rfl, _, hr⟩ | ⟨rfl, n, hn, hr⟩
    · refine .inr (.inl ?_)
      cases a with
      | write x w =>
        by_cases hx : x = 0x00
        · exact ⟨w, by rw [hx], hr⟩
        · by_cases hx' : x = 0x40
          · rw [hx'] at hd; cases hd
          · rw [decode_other_write x w hx hx'] at hd; cases hd; exact absurd rfl hw
      | read x =>
        by_cases hx : x = 0x44
        · rw [hx] at hd; cases hd
        · by_cases hx' : x = 0x48
          · rw [hx'] at hd; cases hd
          · rw [decode_other_read x hx hx'] at hd; cases hd; exact absurd rfl hw
    · exact .inr (.inr (.inl ⟨rfl, hr⟩))
    · exact .inr (.inr (.inr ⟨rfl, n, hn, hr⟩))

/-- A run of any machine goes on from the state its first step leaves. -/
theorem core_run_next (M : Host.Core) (k : Nat) (s t : M.State) (h : M.step s = .next t) :
    M.run (k + 1) s = M.run k t := by rw [Host.Core.run, h]

/-- The same of this machine, in its own names. -/
theorem run_next (k : Nat) (s t : State) (h : step s = .next t) :
    Host.Core.run Sys2Proof.core (k + 1) s = Host.Core.run Sys2Proof.core k t :=
  core_run_next Sys2Proof.core k s t h

/-! ## The instructions whose rule has two ends, one lemma an end -/

theorem exec_modinv_some (s : State) (k : Nat) (h : modInverse (residue (sint32 s.opa)) = some k) :
    exec .modinv s = .next ((s.set .res (wordOf k)).finish .ok) := by simp [exec, execModinv, h]

theorem exec_modinv_none (s : State) (h : modInverse (residue (sint32 s.opa)) = none) :
    exec .modinv s = .next ((s.set .res 0).finish .noinv) := by simp [exec, execModinv, h]

theorem exec_minv_unit (s : State) (k : Nat) (h : gcdInt (det26 (matrixOperand s)) 26 = 1)
    (hk : modInverse (det26 (matrixOperand s)) = some k) :
    exec .minv s = .next ((s.setInverse (det26 (matrixOperand s)) k (scaledAdjugate k (matrixOperand s))).finish .ok) := by
  simp [exec, execMinv, h, hk]

theorem exec_minv_nonunit (s : State) (h : gcdInt (det26 (matrixOperand s)) 26 ≠ 1) :
    exec .minv s = .next ((s.setInverse (det26 (matrixOperand s)) 0 ⟨0, 0, 0, 0⟩).finish .nonunit) := by
  simp [exec, execMinv, h]

theorem exec_pairx_fits (s : State) (h : (pairLetters s.lbuf).length ≤ s.caps.lcap) :
    exec .pairx s = .next ((s.setLbuf (pairLetters s.lbuf)).finish .ok) := by
  simp [exec, execPairx, show ¬ (pairLetters s.lbuf).length > s.caps.lcap by omega]

theorem exec_pairx_overflows (s : State) (h : s.caps.lcap < (pairLetters s.lbuf).length) :
    exec .pairx s = .next ((s.raise .lovf).finish .lovf) := by simp [exec, execPairx, h]

theorem exec_txin_full (s : State) (w : Word) (h : s.ibuf.length = s.caps.icap) :
    exec (.txin w) s = .next (s.raise .iovf) := by simp [exec, execTxin, h]

theorem exec_txin_room (s : State) (w : Word) (h : s.ibuf.length ≠ s.caps.icap) :
    exec (.txin w) s = .next (s.setIbuf (s.ibuf ++ [txinByte w])) := by simp [exec, execTxin, h]

theorem exec_txout_empty (s : State) (h : s.lbuf = []) :
    exec .txout s = .next ((s.raise .ounf).deliver emptyPop) := by simp [exec, execTxout, h]

theorem exec_txout_pop (s : State) (l : Letter) (rest : List Letter) (h : s.lbuf = l :: rest) :
    exec .txout s = .next ((s.setLbuf rest).deliver (formatLetter (outputFormat s.ctrl) l)) := by
  simp [exec, execTxout, h]

theorem exec_dgout_short (s : State) (h : s.lbuf.length < 2) :
    exec .dgout s = .next ((s.raise .ounf).deliver emptyPop) := by
  simp only [exec, execDgout]
  split
  · rename_i hl; simp [hl] at h
  · rfl

theorem exec_dgout_pop (s : State) (l1 l2 : Letter) (rest : List Letter) (h : s.lbuf = l1 :: l2 :: rest) :
    exec .dgout s = .next ((s.setLbuf rest).deliver (formatDigraph l1 l2)) := by simp [exec, execDgout, h]

/-- No instruction stops the engine (R225), and none touches the configuration, the events to come, or an operand or
control register (R23, R36). -/
theorem exec_completes (i : Instr) (s : State) : ∃ t, exec i s = .next t ∧ t.caps = s.caps ∧ t.pending = s.pending ∧
    ∀ r ∈ [Reg.ctrl, .opa, .opb, .ma, .mb, .mc, .md], t.get r = s.get r := by
  cases i with
  | modinv =>
    cases h : modInverse (residue (sint32 s.opa)) with
    | none => exact ⟨_, exec_modinv_none s h, by simp, by simp, by simp⟩
    | some k => exact ⟨_, exec_modinv_some s k h, by simp, by simp, by simp⟩
  | minv =>
    simp only [exec, execMinv]
    split <;> exact ⟨_, rfl, by simp [State.setInverse], by simp [State.setInverse], by simp [State.setInverse]⟩
  | pairx => simp only [exec, execPairx]; split <;> exact ⟨_, rfl, by simp, by simp, by simp⟩
  | txin w => simp only [exec, execTxin]; split <;> exact ⟨_, rfl, by simp, by simp, by simp⟩
  | txout => simp only [exec, execTxout]; split <;> exact ⟨_, rfl, by simp, by simp, by simp⟩
  | dgout => simp only [exec, execDgout]; split <;> exact ⟨_, rfl, by simp, by simp, by simp⟩
  | clean | cleanJ => exact ⟨_, rfl, by simp [State.cleaned], by simp [State.cleaned], by simp [State.cleaned]⟩
  | nop | gcd | mdet | tclr | pade | stripx | unsep | clrf => exact ⟨_, rfl, by simp, by simp, by simp⟩

end Sys2Proof.Machine
end

