-- ==== Sys2Proof/Laws/Text.lean ====
section
/-! SUPPORT. What the text functions keep. -/

namespace Sys2Proof.Machine

/-- `CLEAN` never makes a text longer (R153). -/
theorem cleanText_length (mj : Bool) (bs : List Byte) : (cleanText mj bs).length ≤ bs.length :=
  List.length_filterMap_le _ _

/-- After the merge of R154 no letter is J. -/
theorem mergeJ_ne (l : Letter) : mergeJ true l ≠ Config.letterJ := by
  unfold mergeJ
  by_cases h : l = Config.letterJ
  · simp only [h, and_self, ↓reduceIte]; decide
  · simp [h]

/-- The pad adds at most one letter (R156). -/
theorem padToEven_length (t : List Letter) : (padToEven t).length = t.length + t.length % 2 := by
  unfold padToEven
  split <;> simp <;> omega

/-- `PAIRX` at most doubles a text (R160). -/
theorem pairLetters_length (t : List Letter) : (pairLetters t).length ≤ 2 * t.length := by
  induction t using pairLetters.induct with
  | case1 => simp [pairLetters]
  | case2 a => simp [pairLetters]
  | case3 b rest ih => simp only [pairLetters, ↓reduceIte, List.length_cons] at ih ⊢; omega
  | case4 a b rest hb ih => simp only [pairLetters, hb, ↓reduceIte, List.length_cons]; omega

/-- The filler removals never make a text longer (R163, R164). -/
theorem stripFiller_length (t : List Letter) : (stripFiller t).length ≤ t.length := by
  unfold stripFiller
  split <;> simp

theorem dropSeparators_length (prev : Option Letter) (t : List Letter) :
    (dropSeparators prev t).length ≤ t.length := by
  induction t generalizing prev with
  | nil => simp [dropSeparators]
  | cons l rest ih =>
    have := ih (some l)
    simp only [dropSeparators]
    split <;> simp only [List.length_cons] <;> omega

theorem removeFillers_length (t : List Letter) : (removeFillers t).length ≤ t.length :=
  (dropSeparators_length _ _).trans (stripFiller_length t)

end Sys2Proof.Machine
end

