-- ==== Sys2Proof/Machine/Script.lean ====
section
/-! DEFINITION. The host script notation of R100: each line as the transactions it stands for. -/

namespace Sys2Proof.Machine.Script

/-- `WR name, value`. -/
def wr (n : Name) (v : Int) : Access := .write n.addr (BitVec.ofInt 32 v)

/-- `RD name`. -/
def rd (n : Name) : Access := .read n.addr

/-- A command mnemonic alone on its line. -/
def command (i : Instr) : Access := encode i

/-- `PUTS`: one write to `TXIN` per byte, in order. -/
def puts (text : List Byte) : List Access := text.map fun b => .write Name.txin.addr (b.setWidth 32)

/-- `LDM a, b, c, d`. -/
def ldm (a b c d : Int) : List Access :=
  [wr (.reg .ma) a, wr (.reg .mb) b, wr (.reg .mc) c, wr (.reg .md) d]

/-- `LD2 a, b`. -/
def ld2 (a b : Int) : List Access := [wr (.reg .opa) a, wr (.reg .opb) b]

/-- `GETS n`: n reads of `TXOUT`. -/
def gets (n : Nat) : List Access := List.replicate n (rd .txout)

/-- `GETD n`: n reads of `DGOUT`. -/
def getd (n : Nat) : List Access := List.replicate n (rd .dgout)

/-- `RDM`. -/
def rdm : List Access :=
  [rd (.reg .det), rd (.reg .dinv), rd (.reg .inva), rd (.reg .invb), rd (.reg .invc), rd (.reg .invd)]

end Sys2Proof.Machine.Script
end

