-- ==== Sys2Proof/Tests/Slice0.lean ====
section
/-! SUPPORT. The model's own tests. Values come from `95_test_vectors.md` (section in the comment) or from the
encoding tables of `30_encoding.md`; witnesses show that the hypotheses of the statements can be met. -/

namespace Sys2Proof.Tests

open Sys2Proof.Machine Sys2Proof.Reference

/-- The state one transaction leaves. -/
def after (a : Access) (s : State) : Option State :=
  match step (s.issue (.access a)) with
  | .next t => some t
  | _ => none

/-- The state one instruction leaves. -/
def ran (i : Instr) (s : State) : Option State :=
  match exec i s with
  | .next t => some t
  | _ => none

/-- A reset engine with the capacities of section 2.10. -/
def small : State := State.resetWith ⟨4, 8⟩

/-- A reset engine with scalar operands. -/
def scalars (a b : Word) : State := { State.reset with opa := a, opb := b }

/-- A reset engine with a matrix operand. -/
def matrix (a b c d : Word) : State := { State.reset with ma := a, mb := b, mc := c, md := d }

/-- A reset engine with a text of letters. -/
def letters (t : List Letter) : State := { State.reset with lbuf := t }

/-! ## Well-formedness: one ill-formed term for each check of R4 -/

theorem test_wf_suggested : Capacities.suggested.wf = true := by decide
theorem test_wf_smallest : (Capacities.mk 1 2).wf = true := by decide
theorem test_wf_refuses_no_input_place : (Capacities.mk 0 2).wf = false := by decide
theorem test_wf_refuses_odd_lcap : (Capacities.mk 4 9).wf = false := by decide
theorem test_wf_refuses_short_lcap : (Capacities.mk 4 6).wf = false := by decide
theorem test_wf_every_instruction : (Instr.txin 0xFFFFFFFF).wf = true := by decide

/-! ## Decoding: the words of R92 and the pairs of R98, bit by bit where a family needs one -/

-- control: RSV, OPT, OP
theorem test_decode_nop : decode (.write 0x00 0b0000000000000000_00000000_00000000) = .instr .nop := by decide
theorem test_decode_clrf : decode (.write 0x00 0b0000000000000000_00000000_00011111) = .instr .clrf := by decide
-- unit MA
theorem test_decode_gcd : decode (.write 0x00 0b0000000000000000_00000000_00000001) = .instr .gcd := by decide
theorem test_decode_modinv : decode (.write 0x00 0b0000000000000000_00000000_00000010) = .instr .modinv := by decide
-- unit MX
theorem test_decode_mdet : decode (.write 0x00 0b0000000000000000_00000000_00000011) = .instr .mdet := by decide
theorem test_decode_minv : decode (.write 0x00 0b0000000000000000_00000000_00000100) = .instr .minv := by decide
-- unit TX, commands
theorem test_decode_tclr : decode (.write 0x00 0b0000000000000000_00000000_00010000) = .instr .tclr := by decide
theorem test_decode_clean : decode (.write 0x00 0b0000000000000000_00000000_00010001) = .instr .clean := by decide
theorem test_decode_cleanJ : decode (.write 0x00 0b0000000000000000_00000001_00010001) = .instr .cleanJ := by decide
theorem test_decode_pade : decode (.write 0x00 0b0000000000000000_00000000_00010010) = .instr .pade := by decide
theorem test_decode_pairx : decode (.write 0x00 0b0000000000000000_00000000_00010011) = .instr .pairx := by decide
theorem test_decode_stripx : decode (.write 0x00 0b0000000000000000_00000000_00010100) = .instr .stripx := by decide
theorem test_decode_unsep : decode (.write 0x00 0b0000000000000000_00000000_00010101) = .instr .unsep := by decide
-- unit TX, ports
theorem test_decode_txin : decode (.write 0b01000000 0x00000169) = .instr (.txin 0x00000169) := by decide
theorem test_decode_txout : decode (.read 0b01000100) = .instr .txout := by decide
theorem test_decode_dgout : decode (.read 0b01001000) = .instr .dgout := by decide
-- section 2.8: the illegal words, by the reason R96 gives
theorem test_decode_unassigned : [0x05#32, 0x0F, 0x16, 0x20, 0xFF].map decodeCommand =
    List.replicate 5 (.reject .unassignedOpcode) := by decide
theorem test_decode_options : [0x00000101#32, 0x00000211, 0x00000311, 0x00008011].map decodeCommand =
    List.replicate 4 (.reject .optionBits) := by decide
theorem test_decode_reserved : [0x00010001#32, 0x80000000, 0xFFFFFFFF].map decodeCommand =
    List.replicate 3 (.reject .reservedField) := by decide
theorem test_decode_directions : ∀ a ∈ [Access.read 0x00, .read 0x40, .write 0x44 0, .write 0x48 0, .write 0x0C 1],
    decode a = .reject .notAnInstruction := by decide
-- the rows of `opcode_table.json`, by its own numbering
theorem test_table_commands : legalWords.map (fun w => decodeTableWord 32 w.toNat) =
    [some .nop, some .gcd, some .modinv, some .mdet, some .minv, some .tclr, some .clean, some .cleanJ, some .pade,
     some .pairx, some .stripx, some .unsep, some .clrf] := by decide
theorem test_table_ports : [0x140, 0x044, 0x048].map (decodeTableWord 16) =
    [some (.txin 0), some .txout, some .dgout] := by decide
theorem test_table_rejects : decodeTableWord 32 0x101 = none ∧ decodeTableWord 16 0x144 = none ∧
    decodeTableWord 16 0x240 = none := by decide
theorem test_address_map : Name.all.map Name.addr =
    [0x00, 0x04, 0x08, 0x0C, 0x10, 0x14, 0x18, 0x1C, 0x20, 0x24, 0x28, 0x2C, 0x30, 0x34, 0x38, 0x3C, 0x40, 0x44, 0x48,
     0x4C, 0x50, 0x54] := by decide
-- R100: the expansions
theorem test_script_ldm : Script.ldm 3 (-3) 2 5 = [.write 0x18 0x00000003, .write 0x1C 0xFFFFFFFD, .write 0x20 0x00000002,
    .write 0x24 0x00000005] := by decide
theorem test_script_puts : Script.puts [0x48, 0x69] = [.write 0x40 0x00000048, .write 0x40 0x00000069] := by decide
theorem test_script_rdm : Script.rdm = [.read 0x28, .read 0x2C, .read 0x30, .read 0x34, .read 0x38, .read 0x3C] := by
  decide

/-! ## Unit MA (sections 2.1, 2.2) -/

theorem test_gcd_negative : (ran .gcd (scalars 12 (-18))).map State.res = some 6 := by decide
theorem test_gcd_largest : (ran .gcd (scalars 0x80000000 0x80000000)).map State.res = some 0x80000000 := by decide
theorem test_modinv_negative : (ran .modinv (scalars 0xFFFFFFFD 7)).map (fun t => (t.res, t.status)) =
    some (17, 0) := by decide
theorem test_modinv_none : (ran .modinv { scalars 0x80000000 7 with res := 9 }).map (fun t => (t.res, t.status)) =
    some (0, 1) := by decide

/-! ## Unit MX (sections 2.3, 2.4) -/

theorem test_mdet_floored : (ran .mdet (matrix 1 2 3 4)).map (fun t => (t.res, t.det)) = some (24, 0) := by decide
theorem test_mdet_extreme : (ran .mdet (matrix 0x7FFFFFFF 0x80000000 1 1)).map State.res = some 21 := by decide
theorem test_minv_negative_entries : (ran .minv (matrix (-3) (-3) (-2) (-5))).map
    (fun t => [t.det, t.dinv, t.inva, t.invb, t.invc, t.invd, t.status]) = some [9, 3, 11, 9, 6, 17, 0] := by decide
theorem test_minv_nonunit_clears : (ran .minv { matrix 13 0 0 1 with dinv := 3, inva := 15, invd := 9, res := 5 }).map
    (fun t => [t.det, t.dinv, t.inva, t.invb, t.invc, t.invd, t.status, t.res]) = some [13, 0, 0, 0, 0, 0, 2, 5] := by
  decide

/-! ## Unit TX, commands (sections 2.5, 2.6, 2.10; R152) -/

theorem test_tclr : (ran .tclr { letters [7, 4, 11] with ibuf := [0x41], status := 0x402 }).map
    (fun t => (t.ibuf, t.lbuf, t.status)) = some ([], [], 0x400) := by decide
-- the boundary bytes of section 2.5
theorem test_clean_boundaries : (ran .clean { letters [1] with ibuf := [0x40, 0x41, 0x5A, 0x5B, 0x60, 0x61, 0x7A, 0x7B] }).map
    (fun t => (t.ibuf, t.lbuf)) = some ([], [0, 25, 0, 25]) := by decide
theorem test_clean_keeps_j : (ran .clean { State.reset with ibuf := [0x4A, 0x61, 0x7A, 0x7A] }).map State.lbuf =
    some [9, 0, 25, 25] := by decide
theorem test_cleanJ_merges : (ran .cleanJ { State.reset with ibuf := [0x4A, 0x61, 0x6A, 0x7A] }).map State.lbuf =
    some [8, 0, 8, 25] := by decide
theorem test_pade_odd : (ran .pade (letters [23])).map State.lbuf = some [23, 23] := by decide
theorem test_pade_even : (ran .pade (letters [7, 4, 11, 15])).map State.lbuf = some [7, 4, 11, 15] := by decide
-- BALLOON gives BALXLOON
theorem test_pairx_balloon : (ran .pairx (letters [1, 0, 11, 11, 14, 14, 13])).map State.lbuf =
    some [1, 0, 11, 23, 11, 14, 14, 13] := by decide
-- AABBCCDD with LCAP = 8
theorem test_pairx_overflow : (ran .pairx { small with lbuf := [0, 0, 1, 1, 2, 2, 3, 3] }).map
    (fun t => (t.lbuf, t.status)) = some ([0, 0, 1, 1, 2, 2, 3, 3], 0x1004) := by decide
theorem test_stripx_one_only : (ran .stripx (letters [7, 4, 11, 15, 23, 23])).map State.lbuf =
    some [7, 4, 11, 15, 23] := by decide
theorem test_stripx_alone : (ran .stripx (letters [23])).map State.lbuf = some [] := by decide
-- XLXLX gives XLL
theorem test_unsep_alternating : (ran .unsep (letters [23, 11, 23, 11, 23])).map State.lbuf = some [23, 11, 11] := by decide
-- AXXA stays
theorem test_unsep_keeps_double_x : (ran .unsep (letters [0, 23, 23, 0])).map State.lbuf = some [0, 23, 23, 0] := by decide

/-! ## Unit TX, ports (sections 2.7, 2.10) -/

theorem test_txin_low_byte : (ran (.txin 0x00000169) { State.reset with ibuf := [0x48] }).map State.ibuf =
    some [0x48, 0x69] := by decide
theorem test_txin_full : (ran (.txin 0x79) { small with ibuf := [0x78, 0x78, 0x78, 0x78] }).map
    (fun t => (t.ibuf, t.status)) = some ([0x78, 0x78, 0x78, 0x78], 0x400) := by decide
theorem test_txout_lower : (ran .txout { letters [7, 8] with ctrl := 2 }).map (fun t => (t.lbuf, t.returned)) =
    some ([8], [0x68]) := by decide
theorem test_txout_empty : (ran .txout State.reset).map (fun t => (t.status, t.returned)) =
    some (0x800, [0x80000000]) := by decide
theorem test_dgout_pair : (ran .dgout { letters [14, 23] with ctrl := 1 }).map (fun t => (t.lbuf, t.returned)) =
    some ([], [0x00000E17]) := by decide
theorem test_dgout_one_letter : (ran .dgout (letters [7])).map (fun t => (t.lbuf, t.status, t.returned)) =
    some ([7], 0x800, [0x80000000]) := by decide

/-! ## Control and the register interface (section 2.8) -/

theorem test_nop_replaces_rc : (ran .nop { State.reset with status := 0x102 }).map State.status = some 0x100 := by decide
theorem test_clrf_clears : (ran .clrf { State.reset with status := 0xC00 }).map State.status = some 0 := by decide
theorem test_illegal_word : (after (.write 0x00 0x00000101) (scalars 12 18)).map (fun t => (t.res, t.status)) =
    some (0, 0x103) := by decide
theorem test_misaligned_pop : (after (.read 0x45) (letters [7])).map (fun t => (t.lbuf, t.status, t.returned)) =
    some ([7], 0x200, [0]) := by decide
theorem test_status_is_read_only : (after (.write 0x04 0xFFFFFFFF) State.reset).map State.status = some 0x200 := by decide
theorem test_unmapped : (after (.write 0xFC 0x00000001) (scalars 1 0)).map (fun t => (t.opa, t.status)) =
    some (1, 0x200) := by decide
theorem test_ctrl_refuses_reserved : (after (.write 0x08 0x00000003) { State.reset with ctrl := 2 }).map
    (fun t => (t.ctrl, t.status)) = some (2, 0x200) := by decide
theorem test_counts : (after (.read 0x54) (letters [7, 4, 11])).map (fun t => (t.lbuf, t.returned)) =
    some ([7, 4, 11], [1]) := by decide
theorem test_edge_stalled : Edge.event none ⟨false, true, true, false, 0x00, 0x00000004⟩ = .idle := by decide
theorem test_edge_broken_hold : Edge.event (some ⟨false, true, true, false, 0x00, 0x00000004⟩)
    ⟨false, true, true, true, 0x00, 0x00000003⟩ = .holdBroken := by decide
theorem test_edges_stalled_then_done : eventsOf none [⟨false, true, false, false, 0x44, 0⟩,
    ⟨false, true, false, true, 0x44, 0⟩, ⟨true, true, false, true, 0x44, 0⟩] = [.idle, .access (.read 0x44), .reset] := by
  decide

/-! ## Witnesses: the hypotheses of each statement can be met -/

theorem witness_EncodeDecodeAgree : (Instr.txin 0xFFFFFFFF).wf = true ∧
    encode (.txin 0xFFFFFFFF) = .write 0x40 0xFFFFFFFF := by decide
theorem witness_LegalWordsExactly : (0x00000111 : Word) ∈ legalWords ∧ (0x00000211 : Word) ∉ legalWords := by decide
theorem witness_IllegalWordExecutesNothing : (0x00000005 : Word) ∉ legalWords ∧
    (0x00000101 : Word) ∉ legalWords ∧ (0x00000211 : Word) ∉ legalWords ∧ (0x00010001 : Word) ∉ legalWords := by decide
theorem witness_StepRunsDecodedInstruction : (small.issue (.access (.read 0x44))).pending = .access (.read 0x44) :: [] ∧
    decode (.read 0x44) = .instr .txout := by decide
theorem witness_TableWordRunsNext : decodeTableWord 16 0x140 = some (.txin 0) ∧
    decodeTableWord 32 0x111 = some .cleanJ := by decide
-- one state for each clause: gcd(a, 26) is 1, 26, 13, 2
theorem witness_GcdWith26TestsUnits : (scalars 17 26).opb = 26 ∧ (17 : Nat) ∈ units ∧
    (scalars (-26) 26).opa.toInt % 26 = 0 ∧ (scalars 39 26).opa.toInt % 26 = 13 ∧
    (scalars 0x80000000 26).opa.toInt % 26 = 2 := by decide
-- both outcomes of the search
theorem witness_ModinvFindsSmallestInverse :
    (ran .modinv (scalars 25 0)).map (fun t => (t.res, t.rc)) = some (25, 0) ∧
    (ran .modinv (scalars 26 0)).map (fun t => (t.res, t.rc)) = some (0, 1) := by decide
theorem witness_MinvWritesInverseOrZeros : Int.gcd (determinant (matrix 3 3 2 5)) 26 = 1 ∧
    Int.gcd (determinant (matrix 13 0 0 1)) 26 ≠ 1 ∧ Int.gcd (determinant (matrix 0 0 0 0)) 26 ≠ 1 := by decide
theorem witness_MinvIsTheTwoSidedInverse : Int.gcd (determinant (matrix 3 3 2 5)) 26 = 1 ∧
    isReduced ⟨15, 17, 20, 9⟩ ∧ product (operandOf (matrix 3 3 2 5)) ⟨15, 17, 20, 9⟩ = identity := by
  unfold isReduced; decide
theorem witness_MinvRecoversHillKey : Int.gcd (determinant (matrix 7 11 4 11)) 26 = 1 ∧ isReduced ⟨3, 3, 2, 5⟩ ∧
    product ⟨3, 3, 2, 5⟩ (operandOf (matrix 7 11 4 11)) = ⟨7, 14, 8, 25⟩ := by unfold isReduced; decide
theorem witness_MatrixCommandsUseResiduesOnly : ∀ r ∈ [Reg.ma, .mb, .mc, .md],
    ((matrix 3 3 2 5).get r).toInt % 26 = ((matrix 29 29 28 31).get r).toInt % 26 := by decide
-- odd at the last place below LCAP, and even
theorem witness_PadePadsToEven : ([0, 1, 2, 3, 4, 5, 6] : List Letter).length % 2 = 1 ∧ small.caps.wf = true ∧
    ([0, 1, 2, 3, 4, 5, 6] : List Letter).length ≤ small.caps.lcap ∧ ([] : List Letter).length % 2 = 0 := by decide
-- 8 letters out fill LCAP = 8; 9 letters in are beyond it
theorem witness_PairxRunsTheScan : (pairx [23, 23, 23, 23]).length = 8 ∧
    (pairx [23, 23, 23, 23]).length ≤ small.caps.lcap ∧
    small.caps.lcap < (pairx [0, 0, 1, 1, 2, 2, 3, 3]).length := by decide
-- a pair of different letters, and a pair (X,X)
theorem witness_PairxPairsDiffer : ∃ t, exec .pairx (letters [11, 11, 23]) = .next t ∧ t.rc = 0 ∧
    t.lbuf = [11, 23, 11, 23] ∧ ∃ u, exec .pairx (letters [23]) = .next u ∧ u.rc = 0 ∧ u.lbuf = [23, 23] :=
  ⟨_, rfl, by decide, by decide, _, rfl, by decide, by decide⟩
theorem witness_StripxDropsOneTrailingFiller : (letters [7, 23]).lbuf = [7] ++ [23] := by decide
theorem witness_PairxThenUnsepRestores : (23 : Letter) ∉ ({ small with lbuf := [0, 0, 1, 1] } : State).lbuf ∧
    2 * ({ small with lbuf := [0, 0, 1, 1] } : State).lbuf.length ≤ small.caps.lcap := by decide
-- the last free place, and none
theorem witness_TxinAppendsLowByte : ({ small with ibuf := [1, 2, 3] } : State).ibuf.length ≠ small.caps.icap ∧
    ({ small with ibuf := [1, 2, 3, 4] } : State).ibuf.length = small.caps.icap := by decide
theorem witness_TxoutPopsOneLetter : (letters [25]).lbuf = 25 :: [] ∧ (letters [25]).ctrl.toNat % 4 ≠ 3 ∧
    (letters []).lbuf = [] ∧ (0 : Word).toNat % 4 = 0 ∧ (1 : Word).toNat % 4 = 1 ∧ (2 : Word).toNat % 4 = 2 := by decide
theorem witness_TxoutPopsUnderReservedFormat : ({ letters [25] with ctrl := 3 } : State).lbuf = 25 :: [] ∧
    ({ letters [25] with ctrl := 3 } : State).ctrl.toNat % 4 = 3 := by decide
theorem witness_DgoutPopsOneDigraph : (letters [25, 25]).lbuf = 25 :: 25 :: [] ∧ (letters [7]).lbuf.length < 2 ∧
    (letters []).lbuf.length < 2 := by decide
theorem witness_DigraphsComeOutInOrder : 2 * 3 ≤ (letters [7, 4, 11, 11, 14, 23]).lbuf.length ∧
    ({ letters [7, 4, 11, 11, 14, 23] with
      pending := [.access (.read 0x48), .access (.read 0x48), .access (.read 0x48), .idle] } : State).pending =
      List.replicate 3 (.access (.read 0x48)) ++ [.idle] := by decide
theorem witness_ClrfClearsAllFaultBits : (0x00001F04 : Word) &&& ~~~statusNamed = 0 := by decide
theorem witness_OperandRegistersStoreEveryWord : ((0x0C, .opa) : Addr × Reg) ∈ operandRows ∧
    ((0x24, .md) : Addr × Reg) ∈ operandRows := by decide
theorem witness_CtrlStoresOnlyLegalFormats : (2 : Word).toNat ≤ 2 ∧ 2 < (3 : Word).toNat ∧ 2 < (4 : Word).toNat := by decide
theorem witness_RegisterReadsHaveNoSideEffect : ((0x04, .status) : Addr × Reg) ∈ registerRows ∧
    ((0x3C, .invd) : Addr × Reg) ∈ registerRows := by decide
theorem witness_CountViewsReadTheBuffers : ((0x54, (letters [7, 4, 11]).lbuf.length / 2) : Addr × Nat) ∈
    [((0x4C : Addr), (letters [7, 4, 11]).ibuf.length), (0x50, (letters [7, 4, 11]).lbuf.length),
     (0x54, (letters [7, 4, 11]).lbuf.length / 2)] ∧ (letters [7, 4, 11]).lbuf.length < 2 ^ 32 := by decide
-- misaligned, unmapped, wrong direction
theorem witness_BadAccessesOnlySetAcc : ∀ a ∈ [Access.read 0x45, .write 0x0E 1, .read 0x58, .write 0xFC 1,
    .write 0x14 7, .read 0x00, .read 0x40, .write 0x44 0], ¬ reaches a := by
  intro a h; simp only [List.mem_cons, List.not_mem_nil, or_false] at h
  rcases h with rfl | rfl | rfl | rfl | rfl | rfl | rfl | rfl <;> unfold reaches <;> decide
theorem witness_EveryTransactionCompletes :
    (small.issue (.access (.read 0x58))).pending = .access (.read 0x58) :: [] := by decide
-- a read, which leaves RC, and an illegal word, which writes it
theorem witness_OnlyCommandsWriteTheResultCode :
    (after (.read 0x44) { State.reset with status := 2 }).map State.rc = some 2 ∧
    (after (.write 0x00 0x20) State.reset).map State.rc = some 3 := by decide
theorem witness_FaultBitsAreSticky : ∃ t, step (({ State.reset with status := 0x800 } : State).issue
      (.access (.write 0x00 0x00000010))) = .next t ∧ ({ State.reset with status := 0x800 } : State).flag .ounf = true ∧
    (Event.access (.write 0x00 0x00000010)) ≠ .reset ∧
    (Event.access (.write 0x00 0x00000010)) ≠ .access (.write 0x00 0x0000001F) := ⟨_, rfl, by decide, by decide, by decide⟩
theorem witness_AtMostOneFaultPerTransaction : ∃ t, step (State.reset.issue (.access (.read 0x44))) = .next t ∧
    State.reset.flag .ounf = false ∧ t.flag .ounf = true ∧ t.flag .acc = false :=
  ⟨_, rfl, by decide, by decide, by decide⟩
theorem witness_OperandsChangeOnlyByTheirOwnWrite : ∃ t, step ((scalars 5 26).issue (.access (.write 0x10 7))) = .next t ∧
    ∀ w, (Event.access (.write 0x10 7)) ≠ .access (.write 0x0C w) := ⟨_, rfl, by simp⟩
theorem witness_ResultsChangeOnlyByTheirCommands : ∃ t, step ((scalars 5 26).issue (.access (.write 0x00 0x00000010))) =
      .next t ∧ (∀ w ∈ [0x00000001#32, 0x00000002, 0x00000003],
        (Event.access (.write 0x00 0x00000010)) ≠ .access (.write 0x00 w)) ∧
    (Event.access (.write 0x00 0x00000010)) ≠ .access (.write 0x00 0x00000004) := ⟨_, rfl, by simp, by simp⟩
theorem witness_BuffersChangeOnlyAsListed : ∃ t, step ((letters [7]).issue (.access (.read 0x50))) = .next t ∧
    (∀ w, (Access.read 0x50) ≠ .write 0x40 w) ∧ (∀ w, (Access.read 0x50) ≠ .write 0x00 w) ∧
    (Access.read 0x50) ≠ .read 0x44 ∧ (Access.read 0x50) ≠ .read 0x48 := ⟨_, rfl, by simp, by simp, by decide, by decide⟩
-- the same operands, different histories
theorem witness_CommandsAreFunctionsOfTheirOperands : ∃ t t',
    step ((scalars 5 26).issue (.access (.write 0x00 1))) = .next t ∧
    step (({ scalars 5 26 with res := 13, status := 0x801, ctrl := 2 } : State).issue (.access (.write 0x00 1))) = .next t' ∧
    ∀ row ∈ operandRows, (scalars 5 26).get row.2 =
      ({ scalars 5 26 with res := 13, status := 0x801, ctrl := 2 } : State).get row.2 := ⟨_, _, rfl, rfl, by decide⟩

/-- A state with both buffers at a boundary of R4 and a unit inverse in the group of R26 meets the invariant. -/
theorem witness_PairxFitsAfterClean : State.Inv { small with
    status := 0x1F04, ctrl := 2, res := 0x80000000, det := 9, dinv := 3, inva := 15, invb := 17, invc := 20, invd := 9,
    ibuf := [0x78, 0x78, 0x78, 0x78], lbuf := [0, 1, 2, 3, 4, 5, 6, 7] } :=
  ⟨by decide, by decide, by decide, by decide, by decide, by decide, .inl (by decide), by decide, by decide⟩
/-- The same with a step to come, after a failed `MINV`. -/
theorem witness_StepKeepsInv : State.Inv { small with
    status := 2, det := 13, lbuf := [23, 23, 23, 23], pending := [.access (.write 0x00 0x00000013)] } ∧
    ∃ t, step { small with status := 2, det := 13, lbuf := [23, 23, 23, 23],
                           pending := [.access (.write 0x00 0x00000013)] } = .next t ∧ t.lbuf.length = 8 :=
  ⟨⟨by decide, by decide, by decide, by decide, by decide, by decide,
    .inr ⟨by decide, rfl, rfl, rfl, rfl, rfl⟩, by decide, by decide⟩, _, rfl, by decide⟩
theorem witness_ResetMeetsInv : (Capacities.mk 1 2).wf = true := by decide
theorem witness_ResetEdgeClearsEveryRegister : (⟨true, true, true, true, 0x18, 3⟩ : Edge).rst = true ∧
    Edge.event none ⟨true, true, true, true, 0x18, 3⟩ = .reset := by decide
theorem witness_ResetAbandonsWhatWentBefore : Event.holdBroken ∉ [Event.idle, .access (.write 0x40 0x41), .reset] ∧
    ({ small with pending := [.idle, .access (.write 0x40 0x41), .reset] ++ [.reset] } : State).pending =
      [.idle, .access (.write 0x40 0x41), .reset] ++ [.reset] := by decide
-- a first edge; a held request that completes; reset beside a request; a request stalled and then dropped; a wait
theorem witness_TransactionsOccurAtReadyEdges : Edge.event none ⟨false, true, true, true, 0x18, 3⟩ = .access (.write 0x18 3) ∧
    Edge.event (some ⟨false, true, false, false, 0x44, 0⟩) ⟨false, true, false, true, 0x44, 0⟩ = .access (.read 0x44) ∧
    Edge.event (some ⟨false, true, false, false, 0x44, 0⟩) ⟨true, false, true, true, 0x18, 3⟩ = .reset ∧
    Edge.event (some ⟨false, true, false, false, 0x44, 0⟩) ⟨false, false, false, true, 0x44, 0⟩ = .holdBroken ∧
    Edge.event (some ⟨false, true, false, false, 0x44, 0⟩) ⟨false, true, false, false, 0x44, 0⟩ = .idle := by decide
theorem witness_breaksHold :
    breaksHold (some ⟨false, true, false, false, 0x44, 0⟩) ⟨false, false, false, true, 0x44, 0⟩ ∧
    ¬ breaksHold (some ⟨false, true, false, false, 0x44, 0⟩) ⟨false, true, false, true, 0x44, 0⟩ :=
  ⟨⟨_, rfl, by decide⟩, by rintro ⟨b, hb, -, -, -, h⟩; cases hb; simp at h⟩
theorem witness_NoTransactionOccursAtReset : (⟨true, true, false, true, 0x44, 0⟩ : Edge).rst = true ∧
    Edge.event none ⟨true, true, false, true, 0x44, 0⟩ = .reset := by decide
theorem witness_NothingHappensWithoutATransaction : State.reset.pending = [] := by decide

end Sys2Proof.Tests
end

section
/-! PROOF. A command reads the operand registers, the buffers and the capacities, and nothing else (R11, R36). -/

namespace Sys2Proof.Machine

/-- Two states agree on everything a command may read: the operands of R23, the buffers, the capacities. -/
structure SameInputs (s s' : State) : Prop where
  opa : s.opa = s'.opa
  opb : s.opb = s'.opb
  matrix : matrixOperand s = matrixOperand s'
  ibuf : s.ibuf = s'.ibuf
  lbuf : s.lbuf = s'.lbuf
  caps : s.caps = s'.caps

/-- From `s` to `t` and from `s'` to `t'` the same was done: the buffers end equal, and a register other than `STATUS`
holds the same value in both or kept its own value in each. -/
structure SameEffect (s s' t t' : State) : Prop where
  ibuf : t.ibuf = t'.ibuf
  lbuf : t.lbuf = t'.lbuf
  regs : ∀ r, r ≠ .status → t.get r = t'.get r ∨ (t.get r = s.get r ∧ t'.get r = s'.get r)

theorem sameInputs_of_operandRows {s s' : State} (hops : ∀ row ∈ Reference.operandRows, s.get row.2 = s'.get row.2)
    (hi : s.ibuf = s'.ibuf) (hl : s.lbuf = s'.lbuf) (hc : s.caps = s'.caps) : SameInputs s s' := by
  simp only [Reference.operandRows, List.forall_mem_cons, get_opa, get_opb, get_ma, get_mb, get_mc, get_md] at hops
  obtain ⟨hopa, hopb, hma, hmb, hmc, hmd, -⟩ := hops
  exact ⟨hopa, hopb, by simp [matrixOperand, hma, hmb, hmc, hmd], hi, hl, hc⟩

/-! ## The shared operations, done alike on both sides, keep the effects alike -/

theorem SameInputs.noEffect {s s' : State} (h : SameInputs s s') : SameEffect s s' s s' :=
  ⟨h.ibuf, h.lbuf, fun _ _ => .inr ⟨rfl, rfl⟩⟩

section
variable {s s' t t' : State} (h : SameEffect s s' t t')
include h

theorem SameEffect.set (r : Reg) {w w' : Word} (hw : w = w') : SameEffect s s' (t.set r w) (t'.set r w') where
  ibuf := by simpa using h.ibuf
  lbuf := by simpa using h.lbuf
  regs q hq := by
    by_cases hqr : q = r
    · exact .inl (by simp [hqr, hw])
    · simpa [hqr] using h.regs q hq

theorem SameEffect.setIbuf {bs bs' : List Byte} (hb : bs = bs') :
    SameEffect s s' (t.setIbuf bs) (t'.setIbuf bs') :=
  ⟨hb, h.lbuf, fun q hq => by simpa using h.regs q hq⟩

theorem SameEffect.setLbuf {ls ls' : List Letter} (hl : ls = ls') :
    SameEffect s s' (t.setLbuf ls) (t'.setLbuf ls') :=
  ⟨h.ibuf, hl, fun q hq => by simpa using h.regs q hq⟩

theorem SameEffect.finish (rc : ResultCode) : SameEffect s s' (t.finish rc) (t'.finish rc) :=
  ⟨h.ibuf, h.lbuf, fun q hq => by simpa [hq] using h.regs q hq⟩

theorem SameEffect.raise (f : FaultBit) : SameEffect s s' (t.raise f) (t'.raise f) :=
  ⟨h.ibuf, h.lbuf, fun q hq => by simpa [hq] using h.regs q hq⟩

theorem SameEffect.clearFaults : SameEffect s s' t.clearFaults t'.clearFaults :=
  ⟨h.ibuf, h.lbuf, fun q hq => by simpa [hq] using h.regs q hq⟩

theorem SameEffect.setInverse (det dinv : Int) (n : Matrix) :
    SameEffect s s' (t.setInverse det dinv n) (t'.setInverse det dinv n) :=
  (((((h.set .det rfl).set .dinv rfl).set .inva rfl).set .invb rfl).set .invc rfl).set .invd rfl

end

/-! ## Commands -/

/-- Both outcomes are ends of a command with one result code (R221), after the same effect. -/
def EndAlike (s s' : State) (o o' : Host.Outcome State Fault Refusal) : Prop :=
  ∃ u u' rc, o = .next (u.finish rc) ∧ o' = .next (u'.finish rc) ∧ SameEffect s s' u u'

/-- The one statement about the instructions: where two states agree on what a command may read, each command takes
the same end, with the same effect. -/
theorem exec_endAlike {s s' : State} (h : SameInputs s s') (i : Instr) (w : Word)
    (hi : encode i = .write Name.cmd.addr w) : EndAlike s s' (exec i s) (exec i s') := by
  have h0 := h.noEffect
  cases i with
  | nop => exact ⟨s, s', .ok, rfl, rfl, h0⟩
  | clrf => exact ⟨_, _, .ok, rfl, rfl, h0.clearFaults⟩
  | gcd => exact ⟨_, _, .ok, rfl, rfl, h0.set .res (by rw [h.opa, h.opb])⟩
  | modinv =>
    cases hinv : modInverse (residue (sint32 s.opa)) with
    | some k => exact ⟨_, _, .ok, exec_modinv_some s k hinv, exec_modinv_some s' k (h.opa ▸ hinv), h0.set .res rfl⟩
    | none => exact ⟨_, _, .noinv, exec_modinv_none s hinv, exec_modinv_none s' (h.opa ▸ hinv), h0.set .res rfl⟩
  | mdet => exact ⟨_, _, .ok, rfl, rfl, h0.set .res (by rw [h.matrix])⟩
  | minv =>
    simp only [exec, execMinv, h.matrix]
    split
    · exact ⟨_, _, .nonunit, rfl, rfl, h0.setInverse _ _ _⟩
    · exact ⟨_, _, .ok, rfl, rfl, h0.setInverse _ _ _⟩
  | tclr => exact ⟨_, _, .ok, rfl, rfl, (h0.setIbuf rfl).setLbuf rfl⟩
  | clean | cleanJ => exact ⟨_, _, .ok, rfl, rfl, (h0.setLbuf (by rw [h.ibuf])).setIbuf rfl⟩
  | pade | stripx | unsep => exact ⟨_, _, .ok, rfl, rfl, h0.setLbuf (by rw [h.lbuf])⟩
  | pairx =>
    rcases Nat.lt_or_ge s.caps.lcap (pairLetters s.lbuf).length with hlen | hlen
    · have hlen' : s'.caps.lcap < (pairLetters s'.lbuf).length := by simpa only [h.caps, h.lbuf] using hlen
      exact ⟨_, _, .lovf, exec_pairx_overflows s hlen, exec_pairx_overflows s' hlen', h0.raise .lovf⟩
    · have hlen' : (pairLetters s'.lbuf).length ≤ s'.caps.lcap := by simpa only [h.caps, h.lbuf] using hlen
      exact ⟨_, _, .ok, exec_pairx_fits s hlen, exec_pairx_fits s' hlen', h0.setLbuf (by rw [h.lbuf])⟩
  | txin data | txout | dgout => simp [encode, Name.addr] at hi

/-- A word written to `CMD` that spells no command is refused as R96 says. -/
theorem transact_illegalWord (w : Word) (why : Reject) (s : State) (hd : decodeCommand w = .reject why) :
    transact (.write 0x00 w) s = .next s.illegalCommand := by
  have hwhy := decodeCommand_reject w why hd
  rw [transact_reject _ why s (by rw [decode_command, hd])]
  rcases rejected_cases why (.write 0x00 w) s with ⟨-, hr⟩ | ⟨hn, -⟩ | ⟨hn, -⟩
  · rw [hr]
  · exact absurd hn hwhy
  · exact absurd hn hwhy

/-- Every word written to `CMD`, a command or not, ends alike in two states that agree on what a command may read. -/
theorem transact_endAlike {s s' : State} (h : SameInputs s s') (w : Word) :
    EndAlike s s' (transact (.write 0x00 w) s) (transact (.write 0x00 w) s') := by
  cases hd : decode (.write 0x00 w) with
  | instr i =>
    rw [transact_instr _ i s hd, transact_instr _ i s' hd]
    rw [decode_command] at hd
    exact exec_endAlike h i w (decodeCommand_instr w i hd)
  | reject why =>
    rw [decode_command] at hd
    rw [transact_illegalWord w why s hd, transact_illegalWord w why s' hd]
    exact ⟨_, _, .illcmd, rfl, rfl, h.noEffect.raise .illcmd⟩

/-- Settles O45: both commands write the same result code, and their effects are alike. -/
theorem commandsAreFunctionsOfTheirOperands : Obligations.CommandsAreFunctionsOfTheirOperands := by
  intro w s s' t t' hops hi hl hc ht ht'
  rw [step_issue, happen_access] at ht ht'
  obtain ⟨u, u', rc, hu, hu', heff⟩ := transact_endAlike (sameInputs_of_operandRows hops hi hl hc) w
  cases hu.symm.trans ht
  cases hu'.symm.trans ht'
  have hend := heff.finish rc
  exact ⟨by rw [finish_rc, finish_rc], hend.ibuf, hend.lbuf, hend.regs⟩

end Sys2Proof.Machine
end

section
/-! PROOF. The register interface: what a plain access does (R21, R23, R28, R31, R68, R71). -/

namespace Sys2Proof.Machine

/-! ## Transactions that reach a word without being an instruction -/

theorem transact_plain (a : Access) (n : Name) (s : State) (hd : decode a = .reject .notAnInstruction)
    (hc : a.check = .target n) : transact a s = .next (plainAccess n a s) := by
  rw [transact_reject a _ s hd]
  simp [rejected, hc]

theorem decode_writeRegister (r : Reg) (w : Word) : decode (.write r.addr w) = .reject .notAnInstruction :=
  decode_other_write _ _ (by cases r <;> decide) (by cases r <;> decide)

theorem decode_readRegister (r : Reg) : decode (.read r.addr) = .reject .notAnInstruction :=
  decode_other_read _ (by cases r <;> decide) (by cases r <;> decide)

/-- A write at the address of an RW register stores, or refuses the value (R68). -/
theorem transact_writeRegister (r : Reg) (w : Word) (s : State) (hr : r.writable = true) :
    transact (.write r.addr w) s = .next (storeRegister r w s) :=
  transact_plain _ (.reg r) s (decode_writeRegister r w) ((check_target_iff _ _).mpr ⟨rfl, hr⟩)

/-- A read at the address of a storage register returns its word. -/
theorem transact_readRegister (r : Reg) (s : State) : transact (.read r.addr) s = .next (s.deliver (s.get r)) :=
  transact_plain _ (.reg r) s (decode_readRegister r) ((check_target_iff _ _).mpr ⟨rfl, rfl⟩)

theorem transact_readIlen (s : State) : transact (.read 0x4C) s = .next (s.deliver (ilenView s)) :=
  transact_plain _ .ilen s (by decide) (by decide)

theorem transact_readLlen (s : State) : transact (.read 0x50) s = .next (s.deliver (llenView s)) :=
  transact_plain _ .llen s (by decide) (by decide)

theorem transact_readDgcnt (s : State) : transact (.read 0x54) s = .next (s.deliver (dgcntView s)) :=
  transact_plain _ .dgcnt s (by decide) (by decide)

/-! ## Storing -/

theorem storeRegister_legal (r : Reg) (w : Word) (s : State) (h : legalValue r w = true) :
    storeRegister r w s = s.set r w := by simp [storeRegister, h]

theorem storeRegister_illegal (r : Reg) (w : Word) (s : State) (h : legalValue r w = false) :
    storeRegister r w s = s.raise .acc := by simp [storeRegister, h]

/-- The legal values of `CTRL` are 0, 1 and 2 (R28). -/
theorem legalValue_ctrl_iff (w : Word) : legalValue .ctrl w = true ↔ w.toNat ≤ 2 := by
  have hhigh : w.extractLsb' 2 30 = 0 ↔ w.toNat < 4 := by
    have hw := w.isLt
    simp only [← BitVec.toNat_inj, BitVec.extractLsb'_toNat, Nat.shiftRight_eq_div_pow,
      BitVec.ofNat_eq_ofNat, BitVec.toNat_zero]
    omega
  have hlow : outputFormat w = 3 ↔ w.toNat % 4 = 3 := by
    rw [← BitVec.toNat_inj, outputFormat, BitVec.extractLsb'_toNat, Nat.shiftRight_zero, BitVec.ofNat_eq_ofNat,
      BitVec.toNat_ofNat]
  simp only [legalValue, decide_eq_true_eq, hhigh, ne_eq, hlow]
  omega

theorem legalValue_of_ne_ctrl (r : Reg) (w : Word) (h : r ≠ .ctrl) : legalValue r w = true := by
  cases r with
  | ctrl => exact absurd rfl h
  | status | opa | opb | res | ma | mb | mc | md | det | dinv | inva | invb | invc | invd => rfl

theorem sameText_set (s : State) (r : Reg) (w : Word) : SameText s (s.set r w) :=
  ⟨set_ibuf s r w, set_lbuf s r w, set_returned s r w⟩

/-! ## The tables of R21 -/

/-- The operand rows are at the model's addresses, and each is an RW register with no illegal value (R23). -/
theorem operandRows_spec : ∀ row ∈ Reference.operandRows,
    row.1 = row.2.addr ∧ row.2.writable = true ∧ row.2 ≠ .ctrl ∧ row.2 ≠ .status := by decide

theorem registerRows_addr : ∀ row ∈ Reference.registerRows, row.1 = row.2.addr := by decide

/-! ## Obligations -/

/-- Settles O33: the write reaches its register, whose every value is legal. -/
theorem operandRegistersStoreEveryWord : Obligations.OperandRegistersStoreEveryWord := by
  intro s row w hrow
  obtain ⟨haddr, hwr, hctrl, hstatus⟩ := operandRows_spec row hrow
  have hstep : step (s.issue (.access (.write row.1 w))) = .next (s.set row.2 w) := by
    rw [step_issue, happen_access, haddr, transact_writeRegister _ w s hwr,
      storeRegister_legal _ w s (legalValue_of_ne_ctrl _ w hctrl)]
  exact ⟨_, hstep, get_set_same s row.2 w, frame_set s row.2 w (List.mem_singleton_self _) hstatus,
    sameText_set s row.2 w⟩

/-- Settles O34: the value check of R68 on `CTRL` accepts exactly 0, 1 and 2. -/
theorem ctrlStoresOnlyLegalFormats : Obligations.CtrlStoresOnlyLegalFormats := by
  intro s w
  have hstep : step (s.issue (.access (.write 0x08 w))) = .next (storeRegister .ctrl w s) :=
    transact_writeRegister .ctrl w s rfl
  constructor
  · intro hle
    rw [storeRegister_legal _ w s ((legalValue_ctrl_iff w).mpr hle)] at hstep
    exact ⟨_, hstep, by simp, frame_set s .ctrl w (List.mem_singleton_self _) (by decide), sameText_set s .ctrl w⟩
  · intro hgt
    have hillegal : legalValue .ctrl w = false := by
      rw [← Bool.not_eq_true, legalValue_ctrl_iff]; omega
    rw [storeRegister_illegal _ w s hillegal] at hstep
    exact ⟨_, hstep, by simp, frame_raise s .acc, rfl, rfl, rfl⟩

/-- Settles O35. -/
theorem registerReadsHaveNoSideEffect : Obligations.RegisterReadsHaveNoSideEffect := by
  intro s row hrow
  have hstep : step (s.issue (.access (.read row.1))) = .next (s.deliver (s.get row.2)) := by
    rw [step_issue, happen_access, registerRows_addr row hrow, transact_readRegister]
  exact ⟨_, hstep, rfl, deliver_get s _, rfl, rfl, rfl, rfl⟩

/-- Bit 0 of `LLEN` is set exactly when the letter count is odd (R31). -/
theorem llenView_bit_zero (s : State) : (llenView s).getLsbD 0 = true ↔ s.lbuf.length % 2 = 1 := by
  rw [← llenView_parity s, ← BitVec.testBit_toNat, Nat.testBit_zero, decide_eq_true_iff]

/-- Settles O36: each view is a word delivered, and nothing but the record of returned values grows. -/
theorem countViewsReadTheBuffers : Obligations.CountViewsReadTheBuffers := by
  intro s row hrow
  simp only [List.mem_cons, List.not_mem_nil, or_false] at hrow
  rcases hrow with rfl | rfl | rfl
  · exact ⟨_, _, transact_readIlen s, rfl, countWord_toNat _ _,
      fun h => absurd h (by decide : (0x4C : Addr) ≠ 0x50), frame_deliver s _, rfl, rfl⟩
  · exact ⟨_, _, transact_readLlen s, rfl, countWord_toNat _ _, fun _ => llenView_bit_zero s,
      frame_deliver s _, rfl, rfl⟩
  · exact ⟨_, _, transact_readDgcnt s, rfl, countWord_toNat _ _,
      fun h => absurd h (by decide : (0x54 : Addr) ≠ 0x50), frame_deliver s _, rfl, rfl⟩

end Sys2Proof.Machine
end

section
/-! PROOF. What a transaction may change: the storage registers (R23, R25, R26) and the buffers (R29, R30). -/

namespace Sys2Proof.Machine

/-! ## Everything a transaction can end in -/

/-- From a decoded transaction back to the one the encoder gives. -/
theorem eq_encode_of_decode (a : Access) (i : Instr) (h : decode a = .instr i) : a = encode i := by
  cases a with
  | write x w =>
    by_cases hcmd : x = 0x00
    · rw [hcmd, decode_command] at h
      rw [hcmd]; exact (decodeCommand_instr w i h).symm
    · by_cases htxin : x = 0x40
      · rw [htxin] at h ⊢; cases h; rfl
      · rw [decode_other_write x w hcmd htxin] at h; cases h
  | read x =>
    by_cases htxout : x = 0x44
    · rw [htxout] at h ⊢; cases h; rfl
    · by_cases hdgout : x = 0x48
      · rw [hdgout] at h ⊢; cases h; rfl
      · rw [decode_other_read x htxout hdgout] at h; cases h

/-- How a transaction that is no instruction of the table can end. -/
inductive PlainEnd (a : Access) (s : State) : State → Prop
  /-- a legal word stored in the RW register at the address -/
  | stored (r : Reg) (w : Word) (ha : a = .write r.addr w) (hr : r.writable = true)
      (hw : legalValue r w = true) : PlainEnd a s (s.set r w)
  /-- a register or a count read -/
  | returned (w : Word) : PlainEnd a s (s.deliver w)
  /-- a refused write -/
  | refusedWrite : PlainEnd a s (s.raise .acc)
  /-- a refused read -/
  | refusedRead : PlainEnd a s ((s.raise .acc).deliver 0)
  /-- an illegal command word -/
  | illegal : PlainEnd a s s.illegalCommand

theorem badAccess_plainEnd (a : Access) (s : State) : PlainEnd a s (badAccess a s) := by
  cases a with
  | write x w => exact .refusedWrite
  | read x => exact .refusedRead

theorem storeRegister_plainEnd (r : Reg) (w : Word) (s : State) (hr : r.writable = true) :
    PlainEnd (.write r.addr w) s (storeRegister r w s) := by
  cases hlegal : legalValue r w with
  | true => rw [storeRegister_legal r w s hlegal]; exact .stored r w rfl hr hlegal
  | false => rw [storeRegister_illegal r w s hlegal]; exact .refusedWrite

theorem plainAccess_plainEnd (n : Name) (a : Access) (s : State) (h : a.check = .target n) :
    PlainEnd a s (plainAccess n a s) := by
  obtain ⟨haddr, hdir⟩ := (check_target_iff a n).mp h
  cases a with
  | write x w =>
    cases n with
    | reg r =>
      cases (show r.addr = x from haddr)
      exact storeRegister_plainEnd r w s hdir
    | cmd | txin | txout | dgout | ilen | llen | dgcnt => exact .refusedWrite
  | read x =>
    cases n with
    | reg | ilen | llen | dgcnt => exact .returned _
    | cmd | txin | txout | dgout => exact .refusedRead

/-- Everything a transaction can do, with the shared operations of its plain ends. -/
theorem transact_ends (a : Access) (s t : State) (h : transact a s = .next t) :
    (∃ i, a = encode i ∧ exec i s = .next t) ∨ PlainEnd a s t := by
  rcases transact_cases a s t h with ⟨i, hd, hexec⟩ | ⟨w, -, rfl⟩ | ⟨-, rfl⟩ | ⟨-, n, hc, rfl⟩
  · exact .inl ⟨i, eq_encode_of_decode a i hd, hexec⟩
  · exact .inr .illegal
  · exact .inr (badAccess_plainEnd a s)
  · exact .inr (plainAccess_plainEnd n a s hc)

/-- An event with a next state is a reset edge, an idle edge or a transaction. -/
theorem happen_cases (e : Event) (s t : State) (h : happen e s = .next t) :
    (e = .reset ∧ t = s.resetEdge) ∨ (e = .idle ∧ t = s) ∨ ∃ a, e = .access a ∧ transact a s = .next t := by
  cases e with
  | access a => exact .inr (.inr ⟨a, rfl, h⟩)
  | reset => cases h; exact .inl ⟨rfl, rfl⟩
  | idle => cases h; exact .inr (.inl ⟨rfl, rfl⟩)
  | holdBroken => cases h

/-! ## What each instruction writes -/

/-- The result registers an instruction writes (R25, R26). -/
def resultRegs : Instr → List Reg
  | .gcd | .modinv | .mdet => [.res]
  | .minv => Reference.minvRegisters
  | .nop | .tclr | .clean | .cleanJ | .pade | .pairx | .stripx | .unsep | .clrf | .txin _ | .txout | .dgout => []

/-- The instructions that may change `IBUF` (R29). -/
def changesIbuf : Instr → Bool
  | .tclr | .clean | .cleanJ | .txin _ => true
  | .nop | .gcd | .modinv | .mdet | .minv | .pade | .pairx | .stripx | .unsep | .clrf | .txout | .dgout => false

/-- The instructions that may change `LBUF` (R30). -/
def changesLbuf : Instr → Bool
  | .tclr | .clean | .cleanJ | .pade | .pairx | .stripx | .unsep | .txout | .dgout => true
  | .nop | .gcd | .modinv | .mdet | .minv | .clrf | .txin _ => false

/-- From `s` to `t` nothing changed but `STATUS` and what the instruction is listed with. -/
structure ChangesAsListed (i : Instr) (s t : State) : Prop where
  regs : ∀ r, r ≠ .status → r ∉ resultRegs i → t.get r = s.get r
  ibuf : changesIbuf i = false → t.ibuf = s.ibuf
  lbuf : changesLbuf i = false → t.lbuf = s.lbuf

theorem setInverse_get_other (s : State) (det dinv : Int) (n : Matrix) (r : Reg) (h : r ∉ Reference.minvRegisters) :
    (s.setInverse det dinv n).get r = s.get r := by
  simp only [Reference.minvRegisters, List.mem_cons, List.not_mem_nil, or_false, not_or] at h
  simp [State.setInverse, h]

/-- `RES` written and the command ended: all that `GCD`, `MODINV` and `MDET` do. -/
theorem changesAsListed_res (i : Instr) (s : State) (w : Word) (rc : ResultCode) (h : resultRegs i = [.res]) :
    ChangesAsListed i s ((s.set .res w).finish rc) where
  regs r hs hr := by
    rw [h, List.mem_singleton] at hr
    simp [hs, hr]
  ibuf _ := by simp
  lbuf _ := by simp

/-- The six registers of the group written and the command ended: all that `MINV` does. -/
theorem changesAsListed_minv (s : State) (det dinv : Int) (n : Matrix) (rc : ResultCode) :
    ChangesAsListed .minv s ((s.setInverse det dinv n).finish rc) where
  regs r hs hr := by rw [finish_get, if_neg hs, setInverse_get_other s det dinv n r hr]
  ibuf _ := by simp [State.setInverse]
  lbuf _ := by simp [State.setInverse]

/-- The two ends of a read of `DGOUT`: fewer than two letters, or a first pair (R171). -/
theorem short_or_pair (t : List Letter) : t.length < 2 ∨ ∃ l1 l2 rest, t = l1 :: l2 :: rest := by
  match t with
  | [] => exact .inl Nat.zero_lt_two
  | [l] => exact .inl Nat.one_lt_two
  | l1 :: l2 :: rest => exact .inr ⟨l1, l2, rest, rfl⟩

/-- Every instruction changes only what it is listed with. -/
theorem exec_changesAsListed (i : Instr) (s : State) : ∃ t, exec i s = .next t ∧ ChangesAsListed i s t := by
  cases i with
  | nop | clrf => exact ⟨_, rfl, fun r hs _ => by simp [hs], fun _ => rfl, fun _ => rfl⟩
  | gcd | mdet => exact ⟨_, rfl, changesAsListed_res _ s _ .ok rfl⟩
  | modinv =>
    cases h : modInverse (residue (sint32 s.opa)) with
    | none => exact ⟨_, exec_modinv_none s h, changesAsListed_res _ s _ _ rfl⟩
    | some k => exact ⟨_, exec_modinv_some s k h, changesAsListed_res _ s _ _ rfl⟩
  | minv =>
    simp only [exec, execMinv]
    split <;> exact ⟨_, rfl, changesAsListed_minv s _ _ _ _⟩
  | tclr | clean | cleanJ => exact ⟨_, rfl, fun r hs _ => by simp [State.cleaned, hs], nofun, nofun⟩
  | pade | stripx | unsep => exact ⟨_, rfl, fun r hs _ => by simp [hs], fun _ => rfl, nofun⟩
  | pairx =>
    rcases Nat.lt_or_ge s.caps.lcap (pairLetters s.lbuf).length with h | h
    · exact ⟨_, exec_pairx_overflows s h, fun r hs _ => by simp [hs], fun _ => rfl, nofun⟩
    · exact ⟨_, exec_pairx_fits s h, fun r hs _ => by simp [hs], fun _ => rfl, nofun⟩
  | txin w =>
    by_cases h : s.ibuf.length = s.caps.icap
    · exact ⟨_, exec_txin_full s w h, fun r hs _ => by simp [hs], nofun, fun _ => rfl⟩
    · exact ⟨_, exec_txin_room s w h, fun r _ _ => by simp, nofun, fun _ => rfl⟩
  | txout =>
    cases h : s.lbuf with
    | nil => exact ⟨_, exec_txout_empty s h, fun r hs _ => by simp [hs], fun _ => rfl, nofun⟩
    | cons l rest => exact ⟨_, exec_txout_pop s l rest h, fun r _ _ => by simp, fun _ => rfl, nofun⟩
  | dgout =>
    rcases short_or_pair s.lbuf with h | ⟨l1, l2, rest, h⟩
    · exact ⟨_, exec_dgout_short s h, fun r hs _ => by simp [hs], fun _ => rfl, nofun⟩
    · exact ⟨_, exec_dgout_pop s l1 l2 rest h, fun r _ _ => by simp, fun _ => rfl, nofun⟩

/-! ## What each transaction and each event writes -/

/-- The plain ends keep both buffers. -/
theorem PlainEnd.ibuf {a : Access} {s t : State} (h : PlainEnd a s t) : t.ibuf = s.ibuf := by
  cases h with
  | stored r w => exact set_ibuf s r w
  | returned | refusedWrite | refusedRead | illegal => rfl

theorem PlainEnd.lbuf {a : Access} {s t : State} (h : PlainEnd a s t) : t.lbuf = s.lbuf := by
  cases h with
  | stored r w => exact set_lbuf s r w
  | returned | refusedWrite | refusedRead | illegal => rfl

/-- The plain ends keep every register but `STATUS` and the RW register the host writes. -/
theorem PlainEnd.get {a : Access} {s t : State} (h : PlainEnd a s t) (r : Reg) (hs : r ≠ .status) :
    t.get r = s.get r ∨ (r.writable = true ∧ ∃ w, a = .write r.addr w) := by
  cases h with
  | stored q w ha hq =>
    by_cases hrq : r = q
    · exact .inr ⟨hrq ▸ hq, w, hrq ▸ ha⟩
    · exact .inl (get_set_other s q r w hrq)
  | returned w => exact .inl (deliver_get s w r)
  | refusedWrite | refusedRead => exact .inl (by simp [hs])
  | illegal => exact .inl (by simp [State.illegalCommand, hs])

/-- A transaction is an instruction that changes what it is listed with, or ends plainly. -/
theorem transact_changes (a : Access) (s t : State) (h : transact a s = .next t) :
    (∃ i, a = encode i ∧ ChangesAsListed i s t) ∨ PlainEnd a s t := by
  rcases transact_ends a s t h with ⟨i, ha, hexec⟩ | hplain
  · obtain ⟨u, hu, hlisted⟩ := exec_changesAsListed i s
    cases hu.symm.trans hexec
    exact .inl ⟨i, ha, hlisted⟩
  · exact .inr hplain

/-- A register other than `STATUS` changes only by an instruction that lists it, the host's write to it, or reset. -/
theorem happen_get (e : Event) (s t : State) (h : happen e s = .next t) (hreset : e ≠ .reset) (r : Reg)
    (hs : r ≠ .status) : t.get r = s.get r ∨ (∃ i, e = .access (encode i) ∧ r ∈ resultRegs i) ∨
      (r.writable = true ∧ ∃ w, e = .access (.write r.addr w)) := by
  rcases happen_cases e s t h with ⟨rfl, -⟩ | ⟨-, rfl⟩ | ⟨a, rfl, ht⟩
  · exact absurd rfl hreset
  · exact .inl rfl
  · rcases transact_changes a s t ht with ⟨i, rfl, hlisted⟩ | hplain
    · by_cases hr : r ∈ resultRegs i
      · exact .inr (.inl ⟨i, rfl, hr⟩)
      · exact .inl (hlisted.regs r hs hr)
    · rcases hplain.get r hs with hkept | ⟨hw, w, rfl⟩
      · exact .inl hkept
      · exact .inr (.inr ⟨hw, w, rfl⟩)

/-! ## The lists as transactions -/

/-- No instruction writes a register the host may write (R23, R28). -/
theorem resultRegs_readOnly (i : Instr) : ∀ r ∈ resultRegs i, r.writable = false := by
  cases i with
  | gcd | modinv | mdet | minv => decide
  | nop | tclr | clean | cleanJ | pade | pairx | stripx | unsep | clrf | txin | txout | dgout => nofun

/-- The group of R26 is read-only (R21). -/
theorem minvRegisters_readOnly : ∀ r ∈ Reference.minvRegisters, r ≠ .status ∧ r.writable = false := by decide

/-- The words of R92 that write `RES`. -/
theorem encode_of_writes_res (i : Instr) (h : .res ∈ resultRegs i) :
    ∃ w ∈ [0x00000001, 0x00000002, 0x00000003], encode i = .write 0x00 w := by
  cases i with
  | gcd | modinv | mdet => exact ⟨_, by decide, rfl⟩
  | minv => exact absurd h (by decide)
  | nop | tclr | clean | cleanJ | pade | pairx | stripx | unsep | clrf | txin | txout | dgout => cases h

/-- The word of R92 that writes the group of R26. -/
theorem encode_of_writes_group (i : Instr) (r : Reg) (hr : r ∈ Reference.minvRegisters) (h : r ∈ resultRegs i) :
    encode i = .write 0x00 0x00000004 := by
  cases i with
  | minv => rfl
  | gcd | modinv | mdet =>
    rw [List.mem_singleton.mp h] at hr
    exact absurd hr (by decide)
  | nop | tclr | clean | cleanJ | pade | pairx | stripx | unsep | clrf | txin | txout | dgout => cases h

/-- R29's list. -/
theorem encode_of_changesIbuf (i : Instr) (h : changesIbuf i = true) :
    (∃ w, encode i = .write 0x40 w) ∨ ∃ w ∈ [0x00000010, 0x00000011, 0x00000111], encode i = .write 0x00 w := by
  cases i with
  | txin w => exact .inl ⟨w, rfl⟩
  | tclr | clean | cleanJ => exact .inr ⟨_, by decide, rfl⟩
  | nop | gcd | modinv | mdet | minv | pade | pairx | stripx | unsep | clrf | txout | dgout => cases h

/-- R30's list. -/
theorem encode_of_changesLbuf (i : Instr) (h : changesLbuf i = true) :
    encode i = .read 0x44 ∨ encode i = .read 0x48 ∨
      ∃ w ∈ [0x00000010, 0x00000011, 0x00000111, 0x00000012, 0x00000013, 0x00000014, 0x00000015],
        encode i = .write 0x00 w := by
  cases i with
  | txout => exact .inl rfl
  | dgout => exact .inr (.inl rfl)
  | tclr | clean | cleanJ | pade | pairx | stripx | unsep => exact .inr (.inr ⟨_, by decide, rfl⟩)
  | nop | gcd | modinv | mdet | minv | clrf | txin => cases h

/-! ## Obligations -/

/-- Settles O42: no instruction lists a register the host may write. -/
theorem operandsChangeOnlyByTheirOwnWrite : Obligations.OperandsChangeOnlyByTheirOwnWrite := by
  intro s t e row hrow ht hreset hwrite
  obtain ⟨haddr, hwritable, -, hstatus⟩ := operandRows_spec row hrow
  rcases happen_get e s t ht hreset row.2 hstatus with hkept | ⟨i, -, hi⟩ | ⟨-, w, he⟩
  · exact hkept
  · simp [resultRegs_readOnly i _ hi] at hwritable
  · exact absurd (haddr ▸ he) (hwrite w)

/-- Settles O43: the host may write no result register, so a change comes from an instruction that lists it. -/
theorem resultsChangeOnlyByTheirCommands : Obligations.ResultsChangeOnlyByTheirCommands := by
  intro s t e ht hreset
  constructor
  · intro hcmd
    rcases happen_get e s t ht hreset .res (by decide) with hkept | ⟨i, rfl, hi⟩ | ⟨hwritable, -⟩
    · exact hkept
    · obtain ⟨w, hw, henc⟩ := encode_of_writes_res i hi
      exact absurd (congrArg Event.access henc) (hcmd w hw)
    · cases hwritable
  · intro hcmd r hr
    obtain ⟨hstatus, hreadOnly⟩ := minvRegisters_readOnly r hr
    rcases happen_get e s t ht hreset r hstatus with hkept | ⟨i, rfl, hi⟩ | ⟨hwritable, -⟩
    · exact hkept
    · exact absurd (congrArg Event.access (encode_of_writes_group i r hr hi)) hcmd
    · simp [hreadOnly] at hwritable

/-- Settles O44: a transaction off the list is no instruction listed with the buffer. -/
theorem buffersChangeOnlyAsListed : Obligations.BuffersChangeOnlyAsListed := by
  intro s t a ht
  rcases transact_changes a s t ht with ⟨i, rfl, hlisted⟩ | hplain
  · constructor
    · intro htxin hcmd
      refine hlisted.ibuf (Bool.eq_false_iff.mpr fun hi => ?_)
      rcases encode_of_changesIbuf i hi with ⟨w, henc⟩ | ⟨w, hw, henc⟩
      · exact htxin w henc
      · exact hcmd w hw henc
    · intro htxout hdgout hcmd
      refine hlisted.lbuf (Bool.eq_false_iff.mpr fun hi => ?_)
      rcases encode_of_changesLbuf i hi with henc | henc | ⟨w, hw, henc⟩
      · exact htxout henc
      · exact hdgout henc
      · exact hcmd w hw henc
  · exact ⟨fun _ _ => hplain.ibuf, fun _ _ _ => hplain.lbuf⟩

end Sys2Proof.Machine
end

section
/-! PROOF. Every event keeps the invariant of R21 and R25 to R30: one rule per shared operation, then the steps. -/

namespace Sys2Proof.Machine

/-! ## Result words -/

theorem wordOf_natCast_toNat (n : Nat) (h : n < 2 ^ 32) : (wordOf n).toNat = n := by
  exact_mod_cast wordOf_toNat n (Int.natCast_nonneg n) (by exact_mod_cast h)

theorem wordOf_zero : wordOf 0 = 0 := by decide

/-- A residue is read back from its word. -/
theorem wordOf_residue_toNat (v : Int) : ((wordOf (residue v)).toNat : Int) = residue v := by
  have := residue_range v
  exact wordOf_toNat _ (by omega) (by omega)

/-- A residue fits in R21's 0 to 25 as a word. -/
theorem wordOf_residue_le (v : Int) : (wordOf (residue v)).toNat ≤ 25 := by
  have := residue_range v
  have := wordOf_residue_toNat v
  omega

theorem sint32_natAbs_le (w : Word) : (sint32 w).natAbs ≤ 2 ^ 31 := by
  have hlo := BitVec.le_toInt w
  have hhi := BitVec.toInt_lt (x := w)
  unfold sint32
  omega

/-- The result of `GCD` is 0 to 2^31 (R112). -/
theorem gcdInt_sint32_le (v w : Word) : gcdInt (sint32 v) (sint32 w) ≤ 2 ^ 31 := by
  rw [gcdInt_eq]
  rcases Nat.eq_zero_or_pos (sint32 v).natAbs with h0 | hpos
  · rw [h0, Nat.gcd_zero_left]
    exact sint32_natAbs_le w
  · exact (Nat.gcd_le_left _ hpos).trans (sint32_natAbs_le v)

/-! ## The rule of each shared operation -/

/-- What the invariant asks of the word alone, for a register outside the group of R26. -/
def legalContents (r : Reg) (w : Word) : Prop :=
  (r = .status → w &&& ~~~statusNamed = 0 ∧ (rcField w).toNat ≤ 4) ∧ (r = .ctrl → w.toNat ≤ 2) ∧
    (r = .res → w.toNat ≤ 2 ^ 31)

theorem legalContents_res (w : Word) (h : w.toNat ≤ 2 ^ 31) : legalContents .res w := ⟨nofun, nofun, fun _ => h⟩

theorem legalContents_status (w : Word) (hn : w &&& ~~~statusNamed = 0) (hrc : (rcField w).toNat ≤ 4) :
    legalContents .status w := ⟨fun _ => ⟨hn, hrc⟩, nofun, nofun⟩

/-- The value check of R68 is what the invariant needs of a host's write. -/
theorem legalContents_of_legalValue (r : Reg) (w : Word) (hr : r.writable = true) (hw : legalValue r w = true) :
    legalContents r w := by
  refine ⟨?_, ?_, ?_⟩
  · rintro rfl; cases hr
  · rintro rfl; exact (legalValue_ctrl_iff w).mp hw
  · rintro rfl; cases hr

/-- The three constraints of R4. -/
theorem capacities_wf_iff (c : Capacities) :
    c.wf = true ↔ 1 ≤ c.icap ∧ c.lcap % 2 = 0 ∧ 2 * c.icap ≤ c.lcap := by
  simp only [Capacities.wf, Bool.and_eq_true, decide_eq_true_eq]

section
variable {s : State} (h : s.Inv)
include h

/-- A register outside the group takes any word that is legal in it. -/
theorem State.Inv.set (r : Reg) (w : Word) (hr : r ∉ Reference.minvRegisters) (hw : legalContents r w) :
    (s.set r w).Inv := by
  obtain ⟨hstatus, hctrl, hres⟩ := hw
  simp only [Reference.minvRegisters, List.mem_cons, List.not_mem_nil, or_false, not_or] at hr
  obtain ⟨hdet, hdinv, hinva, hinvb, hinvc, hinvd⟩ := hr
  constructor
  case caps => simpa using h.caps
  case statusNamed =>
    rw [set_status]
    split_ifs with hs
    exacts [(hstatus hs).1, h.statusNamed]
  case resultCode =>
    rw [State.rc, set_status]
    split_ifs with hs
    exacts [(hstatus hs).2, h.resultCode]
  case format =>
    rw [set_ctrl]
    split_ifs with hc
    exacts [hctrl hc, h.format]
  case result =>
    rw [set_res]
    split_ifs with hc
    exacts [hres hc, h.result]
  case residues =>
    intro q hq
    have hqr : q ≠ r := by
      rintro rfl
      simp [hdet, hinva, hinvb, hinvc, hinvd] at hq
    rw [get_set_other s r q w hqr]
    exact h.residues q hq
  case group => simpa [State.inverseGroup, hdet, hdinv, hinva, hinvb, hinvc, hinvd] using h.group
  case bytes => simpa using h.bytes
  case letters => simpa using h.letters

theorem State.Inv.finish (rc : ResultCode) : (s.finish rc).Inv :=
  h.set .status _ (by decide) (legalContents_status _ (unnamed_setResultCode rc _ h.statusNamed)
    (by rw [rc_setResultCode]; exact code_le rc))

theorem State.Inv.raise (f : FaultBit) : (s.raise f).Inv :=
  h.set .status _ (by decide) (legalContents_status _ (unnamed_setFaultBit f _ h.statusNamed)
    (by rw [rc_setFaultBit]; exact h.resultCode))

theorem State.Inv.clearFaults : s.clearFaults.Inv :=
  h.set .status _ (by decide) (legalContents_status _ (unnamed_clearFaultBits _ h.statusNamed)
    (by rw [rc_clearFaultBits]; exact h.resultCode))

/-- `RES` written and the command ended: `GCD`, `MODINV`, `MDET`. -/
theorem State.Inv.setResult (w : Word) (rc : ResultCode) (hw : w.toNat ≤ 2 ^ 31) : ((s.set .res w).finish rc).Inv :=
  (h.set .res w (by decide) (legalContents_res w hw)).finish rc

theorem State.Inv.deliver (w : Word) : (s.deliver w).Inv := { h with }

theorem State.Inv.setPending (es : List Event) : (s.setPending es).Inv := { h with }

theorem State.Inv.setIbuf (bs : List Byte) (hb : bs.length ≤ s.caps.icap) : (s.setIbuf bs).Inv :=
  { h with bytes := hb }

theorem State.Inv.setLbuf (ls : List Letter) (hl : ls.length ≤ s.caps.lcap) : (s.setLbuf ls).Inv :=
  { h with letters := hl }

/-- The six registers of the group of R26, written together with values that meet its rule. -/
theorem State.Inv.setInverse (det dinv : Int) (n : Matrix)
    (hres : ∀ v ∈ [det, n.a, n.b, n.c, n.d], (wordOf v).toNat ≤ 25)
    (hgroup : (s.setInverse det dinv n).inverseGroup) : (s.setInverse det dinv n).Inv where
  caps := by simpa [State.setInverse] using h.caps
  statusNamed := by simpa [State.setInverse] using h.statusNamed
  resultCode := by simpa [State.setInverse, State.rc] using h.resultCode
  format := by simpa [State.setInverse] using h.format
  result := by simpa [State.setInverse] using h.result
  residues := by simpa [State.setInverse] using hres
  group := hgroup
  bytes := by simpa [State.setInverse] using h.bytes
  letters := by simpa [State.setInverse] using h.letters

theorem State.Inv.resetEdge : s.resetEdge.Inv where
  caps := h.caps
  statusNamed := by simp
  resultCode := by simp [State.rc, rcField]
  format := by simp
  result := by simp
  residues r _ := by simp
  group := .inr (by simp)
  bytes := by simp
  letters := by simp

end

/-! ## `MINV` -/

/-- Where the determinant is a unit, the search finds its inverse, and the group holds the pair (R26). -/
theorem inverseGroup_unit (s : State) (v : Int) (k : Nat) (n : Matrix) (hunit : gcdInt (residue v) 26 = 1)
    (hk : k ≤ 25) (hinv : residue v * k % 26 = 1) : (s.setInverse (residue v) k n).inverseGroup := by
  have hdet := wordOf_residue_toNat v
  have hdinv := wordOf_natCast_toNat k (by omega)
  rw [gcdInt_eq, ← hdet] at hunit
  rw [← hdet] at hinv
  refine .inl ?_
  simp only [State.setInverse, set_det, set_dinv, reduceCtorEq, ↓reduceIte, hdinv]
  exact ⟨hunit, hk, by exact_mod_cast hinv⟩

/-- Where it is none, the group holds the residue and five zeros (R26). -/
theorem inverseGroup_nonunit (s : State) (v : Int) (hunit : gcdInt (residue v) 26 ≠ 1) :
    (s.setInverse (residue v) 0 ⟨0, 0, 0, 0⟩).inverseGroup := by
  rw [gcdInt_eq, ← wordOf_residue_toNat v] at hunit
  refine .inr ?_
  simp only [State.setInverse, set_det, set_dinv, set_inva, set_invb, set_invc, set_invd, reduceCtorEq, ↓reduceIte]
  exact ⟨hunit, rfl, rfl, rfl, rfl, rfl⟩

/-- A unit of Z/26Z has an inverse, which the search of R116 finds. -/
theorem modInverse_of_unit (v : Int) (hunit : gcdInt (residue v) 26 = 1) :
    ∃ k : Nat, modInverse (residue v) = some k ∧ k ≤ 25 ∧ residue v * k % 26 = 1 := by
  rcases modInverse_cases (residue v) with ⟨k, hk, -, hle, hinv, -⟩ | ⟨-, hnone⟩
  · exact ⟨k, hk, hle, hinv⟩
  · rw [gcdInt_eq] at hunit
    obtain ⟨m, hlt, hm⟩ := Nat.exists_mul_mod_eq_one_of_coprime hunit (by decide)
    have hpos : m ≠ 0 := by rintro rfl; simp at hm
    have hinv : residue v * m % 26 = 1 := by
      rw [← Int.natAbs_of_nonneg (residue_range v).1]
      exact_mod_cast hm
    exact absurd hinv (hnone m (by omega) (by omega))

/-! ## Instructions, transactions, events -/

/-- A cleaned text fits: it is at most as long as the bytes, and `LCAP >= 2*ICAP` (R4, R153). -/
theorem State.Inv.cleaned {s : State} (h : s.Inv) (mj : Bool) : (s.cleaned mj).Inv := by
  have hbytes := h.bytes
  have hclean := cleanText_length mj s.ibuf
  obtain ⟨-, -, hlcap⟩ := (capacities_wf_iff s.caps).mp h.caps
  exact ((h.setLbuf _ (by omega)).setIbuf [] (Nat.zero_le _)).finish .ok

/-- A padded text fits, because `LCAP` is even (R4, R156). -/
theorem State.Inv.padded {s : State} (h : s.Inv) : (s.setLbuf (padToEven s.lbuf)).Inv := by
  have hletters := h.letters
  obtain ⟨-, heven, -⟩ := (capacities_wf_iff s.caps).mp h.caps
  refine h.setLbuf _ ?_
  rw [padToEven_length]
  omega

/-- The one statement about the instructions: each ends in a state that meets the invariant. -/
theorem exec_keepsInv (i : Instr) (s : State) (h : s.Inv) : ∃ t, exec i s = .next t ∧ t.Inv := by
  have hletters := h.letters
  cases i with
  | nop => exact ⟨_, rfl, h.finish .ok⟩
  | clrf => exact ⟨_, rfl, h.clearFaults.finish .ok⟩
  | gcd =>
    refine ⟨_, rfl, h.setResult _ _ ?_⟩
    have hle := gcdInt_sint32_le s.opa s.opb
    rwa [wordOf_natCast_toNat _ (by omega)]
  | modinv =>
    rcases modInverse_cases (residue (sint32 s.opa)) with ⟨k, hk, -, hle, -, -⟩ | ⟨hnone, -⟩
    · refine ⟨_, exec_modinv_some s k hk, h.setResult _ _ ?_⟩
      rw [wordOf_natCast_toNat _ (by omega)]
      omega
    · exact ⟨_, exec_modinv_none s hnone, h.setResult _ _ (by simp)⟩
  | mdet => exact ⟨_, rfl, h.setResult _ _ ((wordOf_residue_le _).trans (by decide))⟩
  | minv =>
    by_cases hunit : gcdInt (det26 (matrixOperand s)) 26 = 1
    · obtain ⟨k, hk, hle, hinv⟩ := modInverse_of_unit _ hunit
      refine ⟨_, exec_minv_unit s k hunit hk, (h.setInverse _ _ _ ?_ ?_).finish .ok⟩
      · simp [scaledAdjugate, det26, wordOf_residue_le]
      · exact inverseGroup_unit s _ k _ hunit hle hinv
    · refine ⟨_, exec_minv_nonunit s hunit, (h.setInverse _ _ _ ?_ ?_).finish .nonunit⟩
      · simp [det26, wordOf_residue_le, wordOf_zero]
      · exact inverseGroup_nonunit s _ hunit
  | tclr => exact ⟨_, rfl, ((h.setIbuf [] (Nat.zero_le _)).setLbuf [] (Nat.zero_le _)).finish .ok⟩
  | clean | cleanJ => exact ⟨_, rfl, h.cleaned _⟩
  | pade => exact ⟨_, rfl, h.padded.finish .ok⟩
  | pairx =>
    rcases Nat.lt_or_ge s.caps.lcap (pairLetters s.lbuf).length with hlen | hlen
    · exact ⟨_, exec_pairx_overflows s hlen, (h.raise .lovf).finish .lovf⟩
    · exact ⟨_, exec_pairx_fits s hlen, (h.setLbuf _ hlen).finish .ok⟩
  | stripx => exact ⟨_, rfl, (h.setLbuf _ ((stripFiller_length _).trans hletters)).finish .ok⟩
  | unsep => exact ⟨_, rfl, (h.setLbuf _ ((removeFillers_length _).trans hletters)).finish .ok⟩
  | txin w =>
    by_cases hfull : s.ibuf.length = s.caps.icap
    · exact ⟨_, exec_txin_full s w hfull, h.raise .iovf⟩
    · have hbytes := h.bytes
      refine ⟨_, exec_txin_room s w hfull, h.setIbuf _ ?_⟩
      rw [List.length_append, List.length_singleton]
      omega
  | txout =>
    cases hl : s.lbuf with
    | nil => exact ⟨_, exec_txout_empty s hl, (h.raise .ounf).deliver _⟩
    | cons l rest =>
      rw [hl, List.length_cons] at hletters
      exact ⟨_, exec_txout_pop s l rest hl, (h.setLbuf rest (by omega)).deliver _⟩
  | dgout =>
    rcases short_or_pair s.lbuf with hshort | ⟨l1, l2, rest, hl⟩
    · exact ⟨_, exec_dgout_short s hshort, (h.raise .ounf).deliver _⟩
    · rw [hl, List.length_cons, List.length_cons] at hletters
      exact ⟨_, exec_dgout_pop s l1 l2 rest hl, (h.setLbuf rest (by omega)).deliver _⟩

theorem PlainEnd.keepsInv {a : Access} {s t : State} (h : PlainEnd a s t) (hs : s.Inv) : t.Inv := by
  cases h with
  | stored r w ha hr hw =>
    refine hs.set r w (fun hgroup => ?_) (legalContents_of_legalValue r w hr hw)
    obtain ⟨-, hreadOnly⟩ := minvRegisters_readOnly r hgroup
    simp [hreadOnly] at hr
  | returned w => exact hs.deliver w
  | refusedWrite => exact hs.raise .acc
  | refusedRead => exact (hs.raise .acc).deliver 0
  | illegal => exact (hs.raise .illcmd).finish .illcmd

theorem happen_keepsInv (e : Event) (s t : State) (hs : s.Inv) (h : happen e s = .next t) : t.Inv := by
  rcases happen_cases e s t h with ⟨-, rfl⟩ | ⟨-, rfl⟩ | ⟨a, -, ht⟩
  · exact hs.resetEdge
  · exact hs
  · rcases transact_ends a s t ht with ⟨i, -, hexec⟩ | hplain
    · obtain ⟨u, hu, hinv⟩ := exec_keepsInv i s hs
      cases hu.symm.trans hexec
      exact hinv
    · exact hplain.keepsInv hs

/-- Settles O46: with no event to come the state stays, and every event keeps the invariant. -/
theorem stepKeepsInv : Obligations.StepKeepsInv := by
  intro s t hs ht
  cases hp : s.pending with
  | nil =>
    rw [step_empty s hp] at ht
    cases ht
    exact hs
  | cons e rest =>
    rw [step_event s e rest hp] at ht
    exact happen_keepsInv e _ t (hs.setPending rest) ht

end Sys2Proof.Machine
end

section
/-! PROOF. Every transaction completes (R61, R225), and one that reaches no word only sets `F_ACC` (R64, R66, R67). -/

namespace Sys2Proof.Machine

/-! ## Completion -/

/-- A transaction the decoder rejects ends plainly. -/
theorem rejected_plainEnd (why : Reject) (a : Access) (s : State) : PlainEnd a s (rejected why a s) := by
  rcases rejected_cases why a s with ⟨-, hr⟩ | ⟨-, -, hr⟩ | ⟨-, n, hn, hr⟩
  · rw [hr]; exact .illegal
  · rw [hr]; exact badAccess_plainEnd a s
  · rw [hr]; exact plainAccess_plainEnd n a s hn

theorem PlainEnd.caps {a : Access} {s t : State} (h : PlainEnd a s t) : t.caps = s.caps := by
  cases h with
  | stored r w => exact set_caps s r w
  | returned | refusedWrite | refusedRead | illegal => rfl

theorem PlainEnd.pending {a : Access} {s t : State} (h : PlainEnd a s t) : t.pending = s.pending := by
  cases h with
  | stored r w => exact set_pending s r w
  | returned | refusedWrite | refusedRead | illegal => rfl

/-- A transaction has a next state, an instruction or not, and touches neither the configuration nor the events to
come. -/
theorem transact_completes (a : Access) (s : State) :
    ∃ t, transact a s = .next t ∧ t.caps = s.caps ∧ t.pending = s.pending := by
  cases hd : decode a with
  | instr i =>
    obtain ⟨t, ht, hcaps, hpending, -⟩ := exec_completes i s
    exact ⟨t, (transact_instr a i s hd).trans ht, hcaps, hpending⟩
  | reject why =>
    have hend := rejected_plainEnd why a s
    exact ⟨_, transact_reject a why s hd, hend.caps, hend.pending⟩

/-! ## Accesses that reach no word -/

/-- The words of R21 the host may write stand at the writable addresses. -/
theorem addr_mem_writableAddrs (n : Name) (h : n.writable = true) : n.addr ∈ Reference.writableAddrs := by
  have key : ∀ n ∈ Name.all, n.writable = true → n.addr ∈ Reference.writableAddrs := by decide
  exact key n (mem_all n) h

/-- The words of R21 the host may read stand at the readable addresses. -/
theorem addr_mem_readableAddrs (n : Name) (h : n.readable = true) : n.addr ∈ Reference.readableAddrs := by
  have key : ∀ n ∈ Name.all, n.readable = true → n.addr ∈ Reference.readableAddrs := by decide
  exact key n (mem_all n) h

/-- A transaction that passes the checks (1) to (3) of R69 is at an address that takes its direction. -/
theorem reaches_of_check_target (a : Access) (n : Name) (h : a.check = .target n) : Reference.reaches a := by
  obtain ⟨haddr, hdir⟩ := (check_target_iff a n).mp h
  cases a with
  | write x w =>
    cases (show n.addr = x from haddr)
    exact addr_mem_writableAddrs n hdir
  | read x =>
    cases (show n.addr = x from haddr)
    exact addr_mem_readableAddrs n hdir

/-- `CMD` and the ports are among the addresses that take their direction, so elsewhere stands no instruction. -/
theorem decode_of_not_reaches (a : Access) (h : ¬ Reference.reaches a) : decode a = .reject .notAnInstruction := by
  cases a with
  | write x w =>
    have hx : x ∉ Reference.writableAddrs := h
    exact decode_other_write x w (ne_of_mem_of_not_mem (by decide) hx).symm (ne_of_mem_of_not_mem (by decide) hx).symm
  | read x =>
    have hx : x ∉ Reference.readableAddrs := h
    exact decode_other_read x (ne_of_mem_of_not_mem (by decide) hx).symm (ne_of_mem_of_not_mem (by decide) hx).symm

theorem transact_of_not_reaches (a : Access) (s : State) (h : ¬ Reference.reaches a) :
    transact a s = .next (badAccess a s) := by
  rw [transact_reject a _ s (decode_of_not_reaches a h)]
  rcases rejected_cases .notAnInstruction a s with ⟨hne, -⟩ | ⟨-, -, hr⟩ | ⟨-, n, hn, -⟩
  · exact absurd rfl hne
  · rw [hr]
  · exact absurd (reaches_of_check_target a n hn) h

theorem badAccess_flag (a : Access) (s : State) : (badAccess a s).flag .acc = true := by
  cases a <;> simp [badAccess]

theorem frame_badAccess {rs : List Reg} (a : Access) (s : State) : Frame rs 0x200 s (badAccess a s) := by
  cases a with
  | write x w => exact frame_raise s .acc
  | read x => exact (frame_raise s .acc).trans (frame_deliver _ 0)

theorem badAccess_ibuf (a : Access) (s : State) : (badAccess a s).ibuf = s.ibuf := by cases a <;> rfl

theorem badAccess_lbuf (a : Access) (s : State) : (badAccess a s).lbuf = s.lbuf := by cases a <;> rfl

theorem badAccess_returned (a : Access) (s : State) :
    (badAccess a s).returned = s.returned ++ Reference.badReturn a := by
  cases a with
  | write x w => exact (List.append_nil s.returned).symm
  | read x => rfl

/-! ## Obligations -/

/-- Settles O37: such a transaction is rejected by the decoder and fails the checks of R69. -/
theorem badAccessesOnlySetAcc : Obligations.BadAccessesOnlySetAcc := by
  intro s a h
  have hstep : step (s.issue (.access a)) = .next (badAccess a s) := by
    rw [step_issue, happen_access, transact_of_not_reaches a s h]
  exact ⟨_, hstep, badAccess_flag a s, frame_badAccess a s, badAccess_ibuf a s, badAccess_lbuf a s,
    badAccess_returned a s⟩

/-- Settles O38: the event is taken off the list, and the transaction completes in the state that is left. -/
theorem everyTransactionCompletes : Obligations.EveryTransactionCompletes := by
  intro s a rest hp
  obtain ⟨t, ht, hcaps, hpending⟩ := transact_completes a (s.setPending rest)
  rw [step_event s _ rest hp, happen_access]
  exact ⟨t, ht, hpending, hcaps⟩

/-- Settles O5. -/
theorem stepRunsDecodedInstruction : Obligations.StepRunsDecodedInstruction := by
  intro s a rest i hp hd
  rw [step_event s _ rest hp, happen_access, transact_instr a i _ hd]

end Sys2Proof.Machine
end

section
/-! PROOF. The edges of the register interface and the events they amount to (R62, R250, R258). -/

namespace Sys2Proof.Machine

/-! ## Which event an edge amounts to -/

theorem stalls_iff (e : Edge) : e.stalls = true ↔ e.rst = false ∧ e.sel = true ∧ e.ready = false := by
  simp [Edge.stalls]

theorem holds_iff (e before : Edge) : e.holds before = true ↔
    e.sel = before.sel ∧ e.wr = before.wr ∧ e.addr = before.addr ∧ e.wdata = before.wdata := by
  simp [Edge.holds]

/-- The model's test for a broken hold is the rule of R62. -/
theorem holdTest_iff_breaksHold (before : Option Edge) (e : Edge) :
    (before.any fun b => b.stalls && !e.holds b) = true ↔ Reference.breaksHold before e := by
  simp only [Option.any_eq_true, Bool.and_eq_true, Bool.not_eq_true', ← Bool.not_eq_true (e.holds _), stalls_iff,
    holds_iff, and_assoc, Reference.breaksHold]

/-- Everything an edge can be, by what is asked first: reset (R250), a broken hold, a transaction, or nothing (R62). -/
theorem event_cases (before : Option Edge) (e : Edge) :
    (e.rst = true ∧ e.event before = .reset) ∨
    (e.rst = false ∧ Reference.breaksHold before e ∧ e.event before = .holdBroken) ∨
    (e.rst = false ∧ ¬ Reference.breaksHold before e ∧ (e.sel = true ∧ e.ready = true) ∧
      e.event before = .access e.request) ∨
    (e.rst = false ∧ ¬ Reference.breaksHold before e ∧ ¬ (e.sel = true ∧ e.ready = true) ∧ e.event before = .idle) := by
  rw [← holdTest_iff_breaksHold, ← Bool.and_eq_true]
  unfold Edge.event
  split
  · next hrst => exact .inl ⟨hrst, rfl⟩
  · next hrst =>
    have hrst := Bool.eq_false_iff.mpr hrst
    split
    · next hbroken => exact .inr (.inl ⟨hrst, hbroken, rfl⟩)
    · next hheld =>
      split
      · next hready => exact .inr (.inr (.inl ⟨hrst, hheld, hready, rfl⟩))
      · next hready => exact .inr (.inr (.inr ⟨hrst, hheld, hready, rfl⟩))

/-! ## Obligations -/

/-- Settles O51: the four cases exclude each other, and each fixes all four clauses. -/
theorem transactionsOccurAtReadyEdges : Obligations.TransactionsOccurAtReadyEdges := by
  intro before e
  rcases event_cases before e with ⟨hrst, hev⟩ | ⟨hrst, hbroken, hev⟩ | ⟨hrst, hheld, ⟨hsel, hready⟩, hev⟩ |
    ⟨hrst, hheld, hwait, hev⟩
  · simp [hev, hrst]
  · simp [hev, hrst, hbroken]
  · refine ⟨fun a => ?_, by simp [hev, hrst], by simp [hev, hheld], by simp [hev, hsel, hready]⟩
    rw [hev, Event.access.injEq, eq_comm]
    simp [hrst, hheld, hsel, hready, Edge.request]
  · rw [not_and] at hwait
    simp +contextual [hev, hrst, hheld, hwait]

/-- Settles O52. -/
theorem brokenHoldIsRefused : Obligations.BrokenHoldIsRefused := by
  intro s
  rw [step_issue, happen_holdBroken]

/-- Settles O53: the idle edge is taken off the list and does nothing. -/
theorem nothingHappensWithoutATransaction : Obligations.NothingHappensWithoutATransaction :=
  ⟨fun s => by rw [step_issue, happen_idle], step_empty⟩

end Sys2Proof.Machine
end

section
/-! PROOF. The encoding: decoder and encoder agree (R91, R92, R98), and the legal command words are the 13 of the table
(R92, R96). -/

namespace Sys2Proof.Machine

/-! ## The decoder against the encoder -/

/-- The round trip of every constructor, collected. -/
theorem roundTrip (i : Instr) : Laws.RoundTrip.Statement i := by
  cases i with
  | nop => exact Laws.RoundTrip.nop
  | gcd => exact Laws.RoundTrip.gcd
  | modinv => exact Laws.RoundTrip.modinv
  | mdet => exact Laws.RoundTrip.mdet
  | minv => exact Laws.RoundTrip.minv
  | tclr => exact Laws.RoundTrip.tclr
  | clean => exact Laws.RoundTrip.clean
  | cleanJ => exact Laws.RoundTrip.cleanJ
  | pade => exact Laws.RoundTrip.pade
  | pairx => exact Laws.RoundTrip.pairx
  | stripx => exact Laws.RoundTrip.stripx
  | unsep => exact Laws.RoundTrip.unsep
  | clrf => exact Laws.RoundTrip.clrf
  | txin data => exact Laws.RoundTrip.txin data
  | txout => exact Laws.RoundTrip.txout
  | dgout => exact Laws.RoundTrip.dgout

@[simp] theorem decode_encode (i : Instr) : decode (encode i) = .instr i := by
  obtain ⟨-, hdecode, -⟩ := roundTrip i
  exact hdecode

theorem decode_eq_instr_iff (a : Access) (i : Instr) : decode a = .instr i ↔ a = encode i :=
  ⟨eq_encode_of_decode a i, fun h => by rw [h, decode_encode]⟩

/-! ## The legal command words -/

theorem decodeCommand_commandRows : ∀ row ∈ Reference.commandRows, decodeCommand row.1 = .instr row.2 := by decide

/-- The two lists of the table of R92 have the same words. -/
theorem legalWords_eq_map_commandRows : Reference.legalWords = Reference.commandRows.map Prod.fst := rfl

/-- The encoder writes only words of R92's table to `CMD`; the ports stand at other addresses. -/
theorem mem_legalWords_of_encode (i : Instr) (w : Word) (h : encode i = .write Name.cmd.addr w) :
    w ∈ Reference.legalWords := by
  cases i with
  | txin data | txout | dgout => simp [encode, Name.addr] at h
  | nop | gcd | modinv | mdet | minv | tclr | clean | cleanJ | pade | pairx | stripx | unsep | clrf =>
    cases h; decide

/-- A word is a command exactly if it is one of the 13 (R91, R92). -/
theorem exists_decodeCommand_instr_iff (w : Word) : (∃ i, decodeCommand w = .instr i) ↔ w ∈ Reference.legalWords := by
  constructor
  · rintro ⟨i, hi⟩
    exact mem_legalWords_of_encode i w (decodeCommand_instr w i hi)
  · intro hw
    rw [legalWords_eq_map_commandRows, List.mem_map] at hw
    obtain ⟨row, hrow, rfl⟩ := hw
    exact ⟨row.2, decodeCommand_commandRows row hrow⟩

/-- The decoder answers every word, with an instruction or with a reason. -/
theorem exists_reject_iff_not_instr (d : Decoded) : (∃ why, d = .reject why) ↔ ¬ ∃ i, d = .instr i := by
  cases d <;> simp

/-- A word is illegal exactly if it is none of the 13 (R96). -/
theorem exists_decodeCommand_reject_iff (w : Word) :
    (∃ why, decodeCommand w = .reject why) ↔ w ∉ Reference.legalWords := by
  rw [exists_reject_iff_not_instr, exists_decodeCommand_instr_iff]

/-! ## What an illegal word leaves -/

/-- R96's frame: `RC` (bits 3:0) and `F_ILLCMD` (bit 8) of `STATUS`, and nothing else. -/
theorem frame_illegalCommand (s : State) : Frame [] (rcBits ||| 0x100) s s.illegalCommand := by
  have hraise : Frame [] (rcBits ||| 0x100) s (s.raise .illcmd) :=
    (frame_raise s .illcmd).weaken (fun _ h => h) (by decide)
  have hfinish : Frame [] (rcBits ||| 0x100) (s.raise .illcmd) s.illegalCommand :=
    (frame_finish _ .illcmd).weaken (fun _ h => h) (by decide)
  exact hraise.trans hfinish

theorem illegalCommand_rc (s : State) : s.illegalCommand.rc = 3 := finish_rc _ .illcmd

theorem illegalCommand_flag (s : State) : s.illegalCommand.flag .illcmd = true := by simp [State.illegalCommand]

theorem sameText_illegalCommand (s : State) : SameText s s.illegalCommand := ⟨rfl, rfl, rfl⟩

/-! ## The opcode table's numbering (log entry 12) -/

/-- The table's bits are read through the transaction they number. -/
theorem exists_tableAccess_of_decodeTableWord (nbits w : Nat) (i : Instr) (h : decodeTableWord nbits w = some i) :
    ∃ a, tableAccess nbits w = some a ∧ decode a = .instr i := by
  unfold decodeTableWord at h
  split at h
  · cases h
  · next a ha =>
    split at h
    · next j hj =>
      cases h
      exact ⟨a, ha, hj⟩
    · cases h

theorem withFetchWord_of_tableAccess (s : State) (nbits w : Nat) (a : Access) (h : tableAccess nbits w = some a) :
    s.withFetchWord nbits w = s.issue (.access a) := by simp [State.withFetchWord, h]

/-! ## Obligations -/

/-- Settles O2. -/
theorem encodeDecodeAgree : Obligations.EncodeDecodeAgree := fun a i _ => decode_eq_instr_iff a i

/-- Settles O3. -/
theorem legalWordsExactly : Obligations.LegalWordsExactly :=
  ⟨decodeCommand_commandRows, fun w => ⟨exists_decodeCommand_instr_iff w, exists_decodeCommand_reject_iff w⟩⟩

/-- Settles O4: the decoder rejects the word, and the step is `illegalCommand` whatever its reason. -/
theorem illegalWordExecutesNothing : Obligations.IllegalWordExecutesNothing := by
  intro s w hw
  obtain ⟨why, hwhy⟩ := (exists_decodeCommand_reject_iff w).mpr hw
  have hstep : step (s.issue (.access (.write 0x00 w))) = .next s.illegalCommand := by
    rw [step_issue, happen_access, transact_illegalWord w why s hwhy]
  exact ⟨_, hstep, illegalCommand_rc s, illegalCommand_flag s, frame_illegalCommand s, sameText_illegalCommand s⟩

/-- Settles O1: the commands by their rows, the ports by their addresses. -/
theorem spelledWordsDecode : Obligations.SpelledWordsDecode := by
  refine ⟨fun row hrow => ?_, fun w => decode_encode (.txin w), decode_encode .txout, decode_encode .dgout⟩
  rw [decode_command, decodeCommand_commandRows row hrow]

/-- Settles O6: the bits number a transaction that decodes to the instruction, and the step runs it. -/
theorem tableWordRunsNext : Obligations.TableWordRunsNext := by
  intro s nbits w i h
  obtain ⟨a, ha, hd⟩ := exists_tableAccess_of_decodeTableWord nbits w i h
  rw [withFetchWord_of_tableAccess s nbits w a ha, step_issue, happen_access, transact_instr a i s hd]

end Sys2Proof.Machine
end

section
/-! PROOF. Unit MA: `GCD` on all operand pairs, and the search and the table of `MODINV` (R112, R113, R116, R117). -/

namespace Sys2Proof.Machine

/-! ## `RES` written and the command ended -/

theorem frame_setResult (s : State) (w : Word) (rc : ResultCode) : Frame [.res] rcBits s ((s.set .res w).finish rc) :=
  (frame_set s .res w (List.mem_singleton_self _) (by decide)).trans (frame_finish _ rc)

theorem sameText_setResult (s : State) (w : Word) (rc : ResultCode) : SameText s ((s.set .res w).finish rc) := by
  obtain ⟨hibuf, hlbuf, hreturned⟩ := sameText_set s .res w
  exact ⟨hibuf, hlbuf, hreturned⟩

theorem setResult_res (s : State) (w : Word) (rc : ResultCode) : ((s.set .res w).finish rc).res = w := by simp

/-! ## `GCD` -/

/-- The result of `GCD` fits its word, whatever the operands (R112). -/
theorem wordOf_gcdInt_toNat (v w : Word) :
    (wordOf (gcdInt (sint32 v) (sint32 w))).toNat = Nat.gcd v.toInt.natAbs w.toInt.natAbs := by
  have hle := gcdInt_sint32_le v w
  rw [wordOf_natCast_toNat _ (by omega), gcdInt_eq, sint32, sint32]

/-- `GCD` in one lemma: it completes, with the greatest common divisor in `RES`. -/
theorem exec_gcd (s : State) : ∃ w : Word, exec .gcd s = .next ((s.set .res w).finish .ok) ∧
    w.toNat = Nat.gcd s.opa.toInt.natAbs s.opb.toInt.natAbs :=
  ⟨_, rfl, wordOf_gcdInt_toNat s.opa s.opb⟩

/-- The absolute values of two words have a common divisor of at most `2^31` (R112). -/
theorem gcd_toInt_natAbs_le (v w : Word) : Nat.gcd v.toInt.natAbs w.toInt.natAbs ≤ 2 ^ 31 := by
  rw [← gcdInt_eq]
  exact gcdInt_sint32_le v w

/-- The residue mod 26 as a natural number. -/
theorem toNat_emod_26 (v : Int) : ((v % 26).toNat : Int) = v % 26 ∧ (v % 26).toNat < 26 := by omega

/-- A common divisor with 26 depends on the residue only (R113). -/
theorem gcd_natAbs_26_eq_gcd_emod (v : Int) : Nat.gcd v.natAbs 26 = Nat.gcd (v % 26).toNat 26 :=
  calc Nat.gcd v.natAbs 26 = Int.gcd v 26 := rfl
    _ = Int.gcd (v % 26) 26 := (Int.gcd_emod v 26).symm
    _ = Int.gcd ((v % 26).toNat : Int) 26 := by rw [(toNat_emod_26 v).1]
    _ = Nat.gcd (v % 26).toNat 26 := Int.gcd_natCast_natCast _ 26

/-- The four values of `gcd(r, 26)` that R112 lists, over the residues. -/
theorem gcd_26_values : ∀ r < 26,
    (Nat.gcd r 26 = 1 ↔ r ∈ Reference.units) ∧ (Nat.gcd r 26 = 26 ↔ r = 0) ∧ (Nat.gcd r 26 = 13 ↔ r = 13) ∧
      (Nat.gcd r 26 = 2 ↔ r % 2 = 0 ∧ r ≠ 0) := by decide

/-! ## `MODINV` -/

/-- The search sees its operand through the residue only. -/
theorem residue_mul_emod (v : Int) (j : Nat) : residue v * j % 26 = v * j % 26 := by simp [residue, Int.mul_emod]

/-- The table of R117 is what the search of R116 finds: an entry for each unit of R9, and nothing elsewhere. -/
theorem modInverse_eq_inverseTable : ∀ r < 26, modInverse (r : Nat) =
    if r ∈ Reference.units then some (Reference.inverseTable.getD r 0) else none := by decide

theorem inverseTable_le : ∀ r < 26, Reference.inverseTable.getD r 0 ≤ 25 := by decide

theorem inverseTable_of_not_mem_units : ∀ r < 26, r ∉ Reference.units → Reference.inverseTable.getD r 0 = 0 := by decide

/-! ## Obligations -/

/-- Settles O7. -/
theorem gcdWritesGreatestCommonDivisor : Obligations.GcdWritesGreatestCommonDivisor := by
  refine ⟨decode_encode .gcd, fun s => ?_⟩
  obtain ⟨w, hexec, hw⟩ := exec_gcd s
  refine ⟨_, hexec, ?_, ?_, finish_rc _ .ok, frame_setResult s w .ok, sameText_setResult s w .ok⟩
  · rw [setResult_res, hw]
  · rw [setResult_res, hw]
    exact gcd_toInt_natAbs_le s.opa s.opb

/-- Settles O8: `RES` is `gcd(r, 26)` of the residue `r` of `OPA`, and the 26 residues are looked up. -/
theorem gcdWith26TestsUnits : Obligations.GcdWith26TestsUnits := by
  intro s hopb
  obtain ⟨w, hexec, hw⟩ := exec_gcd s
  have hgcd : w.toNat = Nat.gcd (s.opa.toInt % 26).toNat 26 := by rw [hw, hopb, ← gcd_natAbs_26_eq_gcd_emod]; rfl
  obtain ⟨hcast, hlt⟩ := toNat_emod_26 s.opa.toInt
  obtain ⟨hone, hzero, h13, htwo⟩ := gcd_26_values _ hlt
  refine ⟨_, hexec, ?_⟩
  simp only [setResult_res, ← BitVec.toNat_inj, hgcd]
  refine ⟨hone, hzero.trans ?_, h13.trans ?_, htwo.trans ?_⟩ <;> omega

/-- Settles O9: the search of R116 runs on the residue, which the products do not see. -/
theorem modinvFindsSmallestInverse : Obligations.ModinvFindsSmallestInverse := by
  refine ⟨decode_encode .modinv, fun s => ?_⟩
  have hcases := modInverse_cases (residue (sint32 s.opa))
  simp only [residue_mul_emod] at hcases
  rcases hcases with ⟨i, hi, hpos, hle, hinv, hmin⟩ | ⟨hnone, hno⟩
  · refine ⟨_, exec_modinv_some s i hi, .inl ?_, frame_setResult s _ .ok, sameText_setResult s _ .ok⟩
    rw [setResult_res, wordOf_natCast_toNat i (by omega)]
    exact ⟨hpos, hle, hinv, hmin, finish_rc _ .ok⟩
  · exact ⟨_, exec_modinv_none s hnone, .inr ⟨hno, setResult_res s 0 .noinv, finish_rc _ .noinv⟩,
      frame_setResult s 0 .noinv, sameText_setResult s 0 .noinv⟩

/-- Settles O10: by the residue of `OPA`, a unit or none. -/
theorem modinvMatchesTable : Obligations.ModinvMatchesTable := by
  intro s
  obtain ⟨hcast, hlt⟩ := toNat_emod_26 s.opa.toInt
  have hsearch := modInverse_eq_inverseTable _ hlt
  rw [hcast] at hsearch
  by_cases hunit : (s.opa.toInt % 26).toNat ∈ Reference.units
  · rw [if_pos hunit] at hsearch
    refine ⟨_, exec_modinv_some s _ hsearch, ?_, ?_⟩
    · have hle := inverseTable_le _ hlt
      rw [setResult_res, wordOf_natCast_toNat _ (by omega)]
    · rw [if_pos hunit]
      exact finish_rc _ .ok
  · rw [if_neg hunit] at hsearch
    refine ⟨_, exec_modinv_none s hsearch, ?_, ?_⟩
    · rw [setResult_res, inverseTable_of_not_mem_units _ hlt hunit]
      rfl
    · rw [if_neg hunit]
      exact finish_rc _ .noinv

end Sys2Proof.Machine
end

section
/-! PROOF. Unit MX: the determinant residue of `MDET`, and the inverse `MINV` leaves (R130 to R136). -/

namespace Sys2Proof.Machine

open Reference

/-! ## 2x2 matrices over Z/26Z -/

/-- Row times column does not see its left entries beyond their residues. -/
theorem dot_emod_left (x y p q : Int) : (x % 26 * p + y % 26 * q) % 26 = (x * p + y * q) % 26 := by
  simp [Int.add_emod, Int.mul_emod]

/-- Row times column does not see its right entries beyond their residues. -/
theorem dot_emod_right (x y p q : Int) : (x * (p % 26) + y * (q % 26)) % 26 = (x * p + y * q) % 26 := by
  simp [Int.add_emod, Int.mul_emod]

theorem product_assoc (m n o : Matrix) : product (product m n) o = product m (product n o) := by
  simp only [product, dot_emod_left, dot_emod_right, Matrix.mk.injEq]
  refine ⟨?_, ?_, ?_, ?_⟩ <;> ring_nf

/-- A residue mod 26 is its own remainder, in each entry of a reduced matrix. -/
theorem reduced_emod {m : Matrix} (h : isReduced m) :
    m.a % 26 = m.a ∧ m.b % 26 = m.b ∧ m.c % 26 = m.c ∧ m.d % 26 = m.d := by
  obtain ⟨⟨_, _⟩, ⟨_, _⟩, ⟨_, _⟩, _, _⟩ := h
  omega

theorem identity_product {m : Matrix} (h : isReduced m) : product identity m = m := by
  obtain ⟨ha, hb, hc, hd⟩ := reduced_emod h
  simp [product, identity, ha, hb, hc, hd]

theorem product_identity {m : Matrix} (h : isReduced m) : product m identity = m := by
  obtain ⟨ha, hb, hc, hd⟩ := reduced_emod h
  simp [product, identity, ha, hb, hc, hd]

/-- Inverses are unique: a left inverse and a right inverse, both reduced, are the same matrix (R136). -/
theorem right_inverse_eq_left_inverse {m l r : Matrix} (hl : isReduced l) (hr : isReduced r)
    (hlm : product l m = identity) (hmr : product m r = identity) : r = l :=
  calc r = product identity r := (identity_product hr).symm
    _ = product (product l m) r := by rw [hlm]
    _ = product l (product m r) := product_assoc l m r
    _ = product l identity := by rw [hmr]
    _ = l := product_identity hl

theorem isReduced_scaledAdjugate (k : Int) (m : Matrix) : isReduced (scaledAdjugate k m) :=
  ⟨residue_range _, residue_range _, residue_range _, residue_range _⟩

/-- `M * (k * adj(M)) = (k * det(M)) * I`, and `k` inverts the determinant (R136). -/
theorem product_scaledAdjugate {k : Int} {m : Matrix} (h : (m.a * m.d - m.b * m.c) * k % 26 = 1) :
    product m (scaledAdjugate k m) = identity := by
  simp only [product, scaledAdjugate, residue, dot_emod_right, identity, Matrix.mk.injEq]
  refine ⟨?_, Int.emod_eq_zero_of_dvd ⟨0, by ring⟩, Int.emod_eq_zero_of_dvd ⟨0, by ring⟩, ?_⟩
  · rw [← h]; ring_nf
  · rw [← h]; ring_nf

/-- `(k * adj(M)) * M = (k * det(M)) * I`, and `k` inverts the determinant (R136). -/
theorem scaledAdjugate_product {k : Int} {m : Matrix} (h : (m.a * m.d - m.b * m.c) * k % 26 = 1) :
    product (scaledAdjugate k m) m = identity := by
  simp only [product, scaledAdjugate, residue, dot_emod_left, identity, Matrix.mk.injEq]
  refine ⟨?_, Int.emod_eq_zero_of_dvd ⟨0, by ring⟩, Int.emod_eq_zero_of_dvd ⟨0, by ring⟩, ?_⟩
  · rw [← h]; ring_nf
  · rw [← h]; ring_nf

/-! ## The reduction of the operands changes no result (R8, R130) -/

theorem det26_matrixOperand (s : State) : det26 (matrixOperand s) = residue (determinant s) := det26_eq s

theorem scaledAdjugate_matrixOperand (k : Int) (s : State) :
    scaledAdjugate k (matrixOperand s) = scaledAdjugate k (operandOf s) := by
  simp only [scaledAdjugate, matrixOperand, operandOf, sint32, residue_mul, residue_mul_neg]

/-- The unit test sees the determinant through its residue only (R133). -/
theorem gcdInt_residue (v : Int) : gcdInt (residue v) 26 = Int.gcd v 26 :=
  (gcdInt_eq _ _).trans (Int.gcd_emod v 26)

theorem matrixOperand_eq_of_residues {s s' : State}
    (h : ∀ r ∈ [Reg.ma, .mb, .mc, .md], (s.get r).toInt % 26 = (s'.get r).toInt % 26) :
    matrixOperand s = matrixOperand s' := by
  simp only [List.forall_mem_cons, get_ma, get_mb, get_mc, get_md] at h
  obtain ⟨ha, hb, hc, hd, -⟩ := h
  simp [matrixOperand, residue, sint32, ha, hb, hc, hd]

/-! ## The six registers written and the command ended -/

theorem entry_wordOf_residue (v : Int) : entry (wordOf (residue v)) = residue v := wordOf_residue_toNat v

section
variable (s : State) (det dinv : Int) (n : Matrix) (rc : ResultCode)

theorem frame_setInverse : Frame minvRegisters rcBits s ((s.setInverse det dinv n).finish rc) :=
  have hset : Frame minvRegisters rcBits s (s.setInverse det dinv n) :=
    ⟨fun r _ hr => setInverse_get_other s det dinv n r hr, by simp [State.setInverse], by simp [State.setInverse],
      by simp [State.setInverse]⟩
  hset.trans (frame_finish _ rc)

theorem sameText_setInverse : SameText s ((s.setInverse det dinv n).finish rc) := by
  constructor <;> simp [State.setInverse]

theorem entry_det_setInverse (v : Int) : entry ((s.setInverse (residue v) dinv n).finish rc).det = residue v := by
  simp [State.setInverse, entry_wordOf_residue]

theorem entry_dinv_setInverse (k : Nat) (hk : k ≤ 25) : entry ((s.setInverse det k n).finish rc).dinv = k := by
  simp [State.setInverse, entry, wordOf_natCast_toNat k (by omega)]

/-- The scaled adjugate is read back from the four registers it is written to. -/
theorem inverseOf_setInverse (k : Int) (m : Matrix) :
    inverseOf ((s.setInverse det dinv (scaledAdjugate k m)).finish rc) = scaledAdjugate k m := by
  simp [inverseOf, State.setInverse, scaledAdjugate, entry_wordOf_residue]

/-- The six registers hold nothing of the state they were written in. -/
theorem setInverse_get_group (s' : State) : ∀ r ∈ minvRegisters,
    ((s.setInverse det dinv n).finish rc).get r = ((s'.setInverse det dinv n).finish rc).get r := by
  simp [minvRegisters, State.setInverse]

end

/-! ## `MINV` -/

/-- `MINV` for a unit determinant: the registers take the determinant residue, its inverse, and the scaled adjugate of
the matrix the host wrote (R135). -/
theorem exec_minv_of_unit (s : State) (h : Int.gcd (determinant s) 26 = 1) : ∃ k : Nat, 1 ≤ k ∧ k ≤ 25 ∧
    determinant s * k % 26 = 1 ∧ exec .minv s =
      .next ((s.setInverse (residue (determinant s)) k (scaledAdjugate k (operandOf s))).finish .ok) := by
  rw [← gcdInt_residue] at h
  obtain ⟨k, hk, hle, hinv⟩ := modInverse_of_unit _ h
  have hpos : k ≠ 0 := by rintro rfl; simp at hinv
  rw [residue_mul_emod] at hinv
  rw [← det26_matrixOperand] at h hk
  refine ⟨k, by omega, hle, hinv, ?_⟩
  rw [exec_minv_unit s k h hk, det26_matrixOperand, scaledAdjugate_matrixOperand]

/-- `MINV` for any other determinant: its residue, and five zeros (R135). -/
theorem exec_minv_of_nonunit (s : State) (h : Int.gcd (determinant s) 26 ≠ 1) :
    exec .minv s = .next ((s.setInverse (residue (determinant s)) 0 ⟨0, 0, 0, 0⟩).finish .nonunit) := by
  rw [← gcdInt_residue, ← det26_matrixOperand] at h
  rw [exec_minv_nonunit s h, det26_matrixOperand]

/-- What `MINV` writes is fixed by the reduced operand alone (R130). -/
theorem exec_minv_of_matrixOperand (m : Matrix) : ∃ det dinv n rc, ∀ s, matrixOperand s = m →
    exec .minv s = .next ((s.setInverse det dinv n).finish rc) := by
  by_cases h : gcdInt (det26 m) 26 = 1
  · obtain ⟨k, hk, -, -⟩ := modInverse_of_unit _ h
    exact ⟨det26 m, k, scaledAdjugate k m, .ok, by rintro s rfl; exact exec_minv_unit s k h hk⟩
  · exact ⟨det26 m, 0, ⟨0, 0, 0, 0⟩, .nonunit, by rintro s rfl; exact exec_minv_nonunit s h⟩

/-! ## Obligations -/

/-- Settles O11. -/
theorem mdetWritesDeterminantResidue : Obligations.MdetWritesDeterminantResidue := by
  refine ⟨decode_encode .mdet, fun s => ⟨_, rfl, ?_, finish_rc _ .ok, frame_setResult s _ .ok,
    sameText_setResult s _ .ok⟩⟩
  rw [setResult_res, det26_matrixOperand]
  exact entry_wordOf_residue (determinant s)

/-- Settles O12: a unit determinant or none. -/
theorem minvWritesInverseOrZeros : Obligations.MinvWritesInverseOrZeros := by
  refine ⟨decode_encode .minv, fun s => ?_⟩
  by_cases hunit : Int.gcd (determinant s) 26 = 1
  · obtain ⟨k, hpos, hle, hinv, hexec⟩ := exec_minv_of_unit s hunit
    refine ⟨_, hexec, entry_det_setInverse s _ _ _ _, fun _ => ?_, fun hnon => absurd hunit hnon,
      frame_setInverse s _ _ _ _, sameText_setInverse s _ _ _ _⟩
    obtain ⟨hA, hB, hC, hD⟩ :=
      Matrix.mk.inj (inverseOf_setInverse s (residue (determinant s)) k .ok k (operandOf s))
    rw [entry_det_setInverse, entry_dinv_setInverse s _ _ _ k hle, residue_mul_emod]
    exact ⟨by omega, by omega, hinv, hA, hB, hC, hD, finish_rc _ .ok⟩
  · refine ⟨_, exec_minv_of_nonunit s hunit, entry_det_setInverse s _ _ _ _, fun h => absurd h hunit, fun _ => ?_,
      frame_setInverse s _ _ _ _, sameText_setInverse s _ _ _ _⟩
    simp [State.setInverse, wordOf_zero, ResultCode.code]

/-- Settles O13: the scaled adjugate inverts on both sides, so every right inverse is equal to it. -/
theorem minvIsTheTwoSidedInverse : Obligations.MinvIsTheTwoSidedInverse := by
  intro s hunit
  obtain ⟨k, -, -, hinv, hexec⟩ := exec_minv_of_unit s hunit
  refine ⟨_, hexec, ?_⟩
  rw [inverseOf_setInverse]
  have hred := isReduced_scaledAdjugate k (operandOf s)
  have hleft := scaledAdjugate_product (m := operandOf s) hinv
  exact ⟨hred, product_scaledAdjugate hinv, hleft, fun n hn hright => right_inverse_eq_left_inverse hred hn hleft hright⟩

/-- Settles O15: the reduced operands are equal, and both commands read nothing else. -/
theorem matrixCommandsUseResiduesOnly : Obligations.MatrixCommandsUseResiduesOnly := by
  intro s s' h
  have hop := matrixOperand_eq_of_residues h
  constructor
  · refine ⟨_, _, rfl, rfl, ?_, ?_⟩
    · rw [setResult_res, setResult_res, hop]
    · rw [finish_rc, finish_rc]
  · obtain ⟨det, dinv, n, rc, hexec⟩ := exec_minv_of_matrixOperand (matrixOperand s')
    exact ⟨_, _, hexec s hop, hexec s' rfl, setInverse_get_group s det dinv n rc s', by rw [finish_rc, finish_rc]⟩

end Sys2Proof.Machine
end

section
/-! PROOF. Unit TX: the text functions against the rules' own loops and classes (R150, R153 to R165). -/

namespace Sys2Proof.Machine

open Reference

/-! ## `CLEAN` (R150, R153, R154) -/

/-- The two rows of R150 and the rest: where a letter byte has its index, written in upper case it is the byte's
upper-case form. -/
theorem map_byteOf_letterOf (b : Byte) :
    (letterOf b).map byteOf = if isLetterByte b then some (upperByte b) else none := by
  by_cases hupper : 0x41 ≤ b.toNat ∧ b.toNat ≤ 0x5A
  · have hkeep : ¬ 0x61 ≤ b.toNat := by omega
    have hbyte : 0x41 + (b.toNat - 0x41) = b.toNat := by omega
    simp [letterOf, isLetterByte, upperByte, byteOf, hupper, hkeep, hbyte]
  · by_cases hlower : 0x61 ≤ b.toNat ∧ b.toNat ≤ 0x7A
    · have hbyte : BitVec.ofNat 8 (0x41 + (b.toNat - 0x61)) = b - 0x20 := by bv_omega
      simp [letterOf, isLetterByte, upperByte, byteOf, hupper, hlower, hbyte]
    · simp [letterOf, isLetterByte, hupper, hlower]

/-- The merge of R154 comes after the classification. -/
theorem cleanText_eq_map (mj : Bool) (bs : List Byte) : cleanText mj bs = (bs.filterMap letterOf).map (mergeJ mj) :=
  List.map_filterMap.symm

theorem cleanText_false (bs : List Byte) : cleanText false bs = bs.filterMap letterOf := by
  have hid : mergeJ false = id := by funext l; simp [mergeJ]
  rw [cleanText_eq_map, hid, List.map_id]

theorem cleanText_true (bs : List Byte) :
    cleanText true bs = (cleanText false bs).map fun l => if l = 9 then 8 else l := by
  rw [cleanText_false, cleanText_eq_map]
  simp [mergeJ]

/-- The letters `CLEAN` leaves, written as upper-case bytes. -/
theorem map_byteOf_cleanText (bs : List Byte) :
    (cleanText false bs).map byteOf = (bs.filter isLetterByte).map upperByte := by
  rw [cleanText_false, List.map_filterMap, ← List.filterMap_eq_map, List.filterMap_filter]
  simp only [map_byteOf_letterOf, Function.comp_apply]

theorem letterJ_notMem_cleanText (bs : List Byte) : Config.letterJ ∉ cleanText true bs := by
  rw [cleanText_eq_map, List.mem_map]
  rintro ⟨l, -, hl⟩
  exact mergeJ_ne l hl

/-! ## `PADE` (R156) -/

theorem padToEven_odd {t : List Letter} (h : t.length % 2 = 1) : padToEven t = t ++ [Config.filler] := if_pos h

theorem padToEven_even {t : List Letter} (h : t.length % 2 = 0) : padToEven t = t := if_neg (by omega)

theorem padToEven_length_even (t : List Letter) : (padToEven t).length % 2 = 0 := by
  rw [padToEven_length]
  omega

/-- The pad fits an even capacity (R4, R156). -/
theorem padToEven_length_le {t : List Letter} {n : Nat} (hn : n % 2 = 0) (h : t.length ≤ n) :
    (padToEven t).length ≤ n := by
  rw [padToEven_length]
  omega

/-! ## `PAIRX` (R160) -/

/-- The loop of R160 ends behind the text. -/
theorem pairxLoop_end (t : List Letter) (fuel i : Nat) (out : List Letter) (h : t.length ≤ i) :
    pairxLoop t fuel i out = out := by
  cases fuel with
  | zero => rfl
  | succ fuel => rw [pairxLoop, if_neg (by omega)]

/-- One round of R160's loop at a letter and a different one. -/
theorem pairxLoop_pair (p rest : List Letter) (a b : Letter) (fuel : Nat) (out : List Letter) (h : b ≠ a) :
    pairxLoop (p ++ a :: b :: rest) (fuel + 1) p.length out =
      pairxLoop (p ++ [a, b] ++ rest) fuel (p ++ [a, b]).length (out ++ [a, b]) := by
  simp [pairxLoop, h]

/-- One round of R160's loop at a letter that is repeated, or the last. -/
theorem pairxLoop_filler (p rest : List Letter) (a : Letter) (fuel : Nat) (out : List Letter)
    (h : ∀ b ∈ rest.head?, b = a) :
    pairxLoop (p ++ a :: rest) (fuel + 1) p.length out =
      pairxLoop (p ++ [a] ++ rest) fuel (p ++ [a]).length (out ++ [a, 23]) := by
  cases rest with
  | nil => simp [pairxLoop]
  | cons b rest =>
    have hb : b = a := h b rfl
    simp [pairxLoop, hb]

/-- From any position on, the loop of R160 appends what the recursion makes of the text from there. -/
theorem pairxLoop_append (p r : List Letter) (fuel : Nat) (out : List Letter) (h : r.length ≤ fuel) :
    pairxLoop (p ++ r) fuel p.length out = out ++ pairLetters r := by
  induction r using pairLetters.induct generalizing p fuel out with
  | case1 => rw [pairxLoop_end _ _ _ _ (by simp), pairLetters, List.append_nil]
  | case2 a =>
    obtain ⟨fuel, rfl⟩ := Nat.exists_eq_succ_of_ne_zero (Nat.ne_zero_of_lt h)
    rw [pairxLoop_filler _ _ _ _ _ (by simp), pairxLoop_end _ _ _ _ (by simp), pairLetters]
  | case3 a rest ih =>
    obtain ⟨fuel, rfl⟩ := Nat.exists_eq_succ_of_ne_zero (Nat.ne_zero_of_lt h)
    rw [pairxLoop_filler _ _ _ _ _ (by simp), ih _ _ _ (Nat.le_of_succ_le_succ h), pairLetters, if_pos rfl]
    simp
  | case4 a b rest hb ih =>
    obtain ⟨fuel, rfl⟩ := Nat.exists_eq_succ_of_ne_zero (Nat.ne_zero_of_lt h)
    rw [pairxLoop_pair _ _ _ _ _ _ hb, ih _ _ _ (Nat.le_of_succ_le (Nat.le_of_succ_le_succ h)), pairLetters, if_neg hb]
    simp

/-- The recursion of the model is the loop of R160 (log entry 17). -/
theorem pairx_eq_pairLetters (t : List Letter) : pairx t = pairLetters t :=
  pairxLoop_append [] t t.length [] (Nat.le_refl _)

theorem pairLetters_length_even (t : List Letter) : (pairLetters t).length % 2 = 0 := by
  induction t using pairLetters.induct with
  | case1 => rfl
  | case2 a => simp [pairLetters]
  | case3 a rest ih =>
    rw [pairLetters, if_pos rfl, List.length_cons, List.length_cons, Nat.add_assoc, Nat.add_mod_right, ih]
  | case4 a b rest hb ih =>
    rw [pairLetters, if_neg hb, List.length_cons, List.length_cons, Nat.add_assoc, Nat.add_mod_right, ih]

/-- Pairing inserts letters and takes none out. -/
theorem sublist_pairLetters (t : List Letter) : t.Sublist (pairLetters t) := by
  induction t using pairLetters.induct with
  | case1 => exact .slnil
  | case2 a => simp [pairLetters]
  | case3 a rest ih =>
    rw [pairLetters, if_pos rfl]
    exact (ih.cons _).cons_cons _
  | case4 a b rest hb ih =>
    rw [pairLetters, if_neg hb]
    exact (ih.cons_cons _).cons_cons _

/-- A pair as `PAIRX` leaves them: two different letters, or the filler twice. -/
def PairedUp (a b : Letter) : Prop := a ≠ b ∨ (a = 23 ∧ b = 23)

theorem pairedUp_filler (a : Letter) : PairedUp a Config.filler := by
  by_cases h : a = Config.filler
  · exact .inr ⟨h, rfl⟩
  · exact .inl h

/-- Every pair of the output is one that `PairedUp` allows. -/
theorem pairedUp_pairLetters (t : List Letter) (k : Nat) (h : 2 * k + 1 < (pairLetters t).length) :
    PairedUp ((pairLetters t).getD (2 * k) 0) ((pairLetters t).getD (2 * k + 1) 0) := by
  induction t using pairLetters.induct generalizing k with
  | case1 => cases h
  | case2 a =>
    cases k with
    | zero => exact pairedUp_filler a
    | succ k => simp [pairLetters] at h
  | case3 a rest ih =>
    simp only [pairLetters, ↓reduceIte] at h ih ⊢
    cases k with
    | zero => exact pairedUp_filler a
    | succ k => exact ih k (by simp at h ⊢; omega)
  | case4 a b rest hb ih =>
    simp only [pairLetters, hb, ↓reduceIte] at h ⊢
    cases k with
    | zero => exact .inl (Ne.symm hb)
    | succ k => exact ih k (by simp at h ⊢; omega)

/-! ## `STRIPX` (R163) -/

@[simp] theorem stripFiller_nil : stripFiller [] = [] := rfl

theorem stripFiller_append_filler (u : List Letter) : stripFiller (u ++ [Config.filler]) = u := by
  simp [stripFiller]

theorem stripFiller_append_of_ne (u : List Letter) {l : Letter} (h : l ≠ Config.filler) :
    stripFiller (u ++ [l]) = u ++ [l] := by
  simp [stripFiller, h]

/-- The strip of the model is step 1 of R164 as its pseudocode has it. -/
theorem dropTrailing_eq_stripFiller (t : List Letter) : dropTrailing t = stripFiller t := by
  induction t using List.reverseRecOn with
  | nil => rfl
  | append_singleton u l _ =>
    by_cases h : l = Config.filler
    · rw [h, stripFiller_append_filler]
      simp [dropTrailing]
    · rw [stripFiller_append_of_ne u h]
      simp [dropTrailing, h]

/-- The strip looks at the last letter only, here of a text with more than one. -/
theorem stripFiller_cons_of_ne_nil (l : Letter) {u : List Letter} (h : u ≠ []) :
    stripFiller (l :: u) = l :: stripFiller u := by
  obtain ⟨m, u, rfl⟩ := List.exists_cons_of_ne_nil h
  simp only [stripFiller, List.getLast?_cons_cons, List.dropLast_cons_cons]
  split <;> rfl

theorem stripFiller_cons_of_ne_filler {l : Letter} (u : List Letter) (h : l ≠ Config.filler) :
    stripFiller (l :: u) = l :: stripFiller u := by
  cases u with
  | nil => exact stripFiller_append_of_ne [] h
  | cons m u => exact stripFiller_cons_of_ne_nil l (List.cons_ne_nil m u)

/-! ## `UNSEP` (R164, R165) -/

/-- A separator is an X with the same other letter on both sides. -/
theorem isSeparator_iff (prev : Option Letter) (l : Letter) (next : Option Letter) :
    isSeparator prev l next = true ↔ l = Config.filler ∧ ∃ k, k ≠ Config.filler ∧ prev = some k ∧ next = some k := by
  cases prev with
  | none => simp [isSeparator]
  | some k =>
    simp only [isSeparator, Option.isSome_some, Bool.true_and, Bool.and_eq_true, beq_iff_eq, bne_iff_ne,
      Option.some.injEq, ne_eq]
    constructor
    · rintro ⟨hl, hnext, hk⟩
      exact ⟨hl, k, hk, rfl, hnext.symm⟩
    · rintro ⟨hl, _, hk, rfl, hnext⟩
      exact ⟨hl, hnext.symm, hk⟩

/-- What R164's step 2 keeps of position `i`. -/
def keptAt (t : List Letter) (i : Nat) : Option Letter := if separatorAt t i then none else some (t.getD i 0)

/-- A separator by position is a separator by its neighbours. -/
theorem separatorAt_append (p rest : List Letter) (l : Letter) :
    separatorAt (p ++ l :: rest) p.length = isSeparator p.getLast? l rest.head? := by
  rw [Bool.eq_iff_iff, isSeparator_iff]
  induction p using List.reverseRecOn with
  | nil => simp [separatorAt]
  | append_singleton p k _ =>
    cases rest with
    | nil => simp [separatorAt]
    | cons m rest =>
      have hright : (p ++ k :: l :: m :: rest)[p.length + 1 + 1]? = some m := by
        simp [Nat.add_assoc]
      have hfits : p.length + 1 + 2 ≤ p.length + (rest.length + 1 + 1 + 1) := by omega
      rcases eq_or_ne k m with rfl | hkm
      · simp [separatorAt, hright, hfits]
      · simp [separatorAt, hright, hfits, hkm]

/-- From any position on, step 2 of R164 keeps what the recursion keeps, given the letter before. -/
theorem filterMap_keptAt (p r : List Letter) :
    (List.range' p.length r.length).filterMap (keptAt (p ++ r)) = dropSeparators p.getLast? r := by
  induction r generalizing p with
  | nil => rfl
  | cons l rest ih =>
    have hrest := ih (p ++ [l])
    simp only [List.length_append, List.length_singleton, List.append_assoc, List.singleton_append,
      List.getLast?_concat] at hrest
    rw [List.length_cons, List.range'_succ, List.filterMap_cons, hrest, dropSeparators, keptAt, separatorAt_append]
    cases isSeparator p.getLast? l rest.head? <;> simp

/-- The recursion of the model is step 2 of R164 (log entry 17). -/
theorem dropAt_eq_dropSeparators (t : List Letter) : dropAt t = dropSeparators none t := by
  have hall := filterMap_keptAt [] t
  rw [List.length_nil, ← List.range_eq_range'] at hall
  exact hall

theorem dropSeparators_cons_separator {prev : Option Letter} {l : Letter} {rest : List Letter}
    (h : isSeparator prev l rest.head? = true) :
    dropSeparators prev (l :: rest) = dropSeparators (some l) rest := by rw [dropSeparators, if_pos h]

theorem dropSeparators_cons_other {prev : Option Letter} {l : Letter} {rest : List Letter}
    (h : ¬ isSeparator prev l rest.head? = true) :
    dropSeparators prev (l :: rest) = l :: dropSeparators (some l) rest := by rw [dropSeparators, if_neg h]

theorem dropSeparators_cons_of_ne_filler (prev : Option Letter) {l : Letter} (rest : List Letter)
    (h : l ≠ Config.filler) : dropSeparators prev (l :: rest) = l :: dropSeparators (some l) rest :=
  dropSeparators_cons_other fun hsep => h ((isSeparator_iff _ _ _).mp hsep).1

theorem dropSeparators_singleton (prev : Option Letter) (l : Letter) : dropSeparators prev [l] = [l] :=
  dropSeparators_cons_other (by simp [isSeparator_iff])

/-- The last letter of a text is no separator, so step 2 leaves something of every text that is not empty. -/
theorem dropSeparators_ne_nil (prev : Option Letter) {t : List Letter} (h : t ≠ []) : dropSeparators prev t ≠ [] := by
  induction t generalizing prev with
  | nil => exact absurd rfl h
  | cons l rest ih =>
    by_cases hsep : isSeparator prev l rest.head? = true
    · rw [dropSeparators_cons_separator hsep]
      obtain ⟨-, k, -, -, hnext⟩ := (isSeparator_iff _ _ _).mp hsep
      exact ih _ (by rintro rfl; cases hnext)
    · rw [dropSeparators_cons_other hsep]
      exact List.cons_ne_nil _ _

/-- The X that step 1 takes away is no neighbour that step 2 looks for. -/
theorem isSeparator_stripFiller (prev : Option Letter) (l : Letter) (u : List Letter) :
    isSeparator prev l (stripFiller u).head? = isSeparator prev l u.head? := by
  cases u with
  | nil => rfl
  | cons m u =>
    by_cases h : m = Config.filler ∧ u = []
    · obtain ⟨rfl, rfl⟩ := h
      rw [Bool.eq_iff_iff, isSeparator_iff, isSeparator_iff]
      simp [stripFiller, eq_comm]
    · rw [not_and_or] at h
      rcases h with h | h
      · rw [stripFiller_cons_of_ne_filler u h]; rfl
      · rw [stripFiller_cons_of_ne_nil m h]; rfl

/-- The two steps of R164 in either order. -/
theorem dropSeparators_stripFiller (prev : Option Letter) (t : List Letter) :
    dropSeparators prev (stripFiller t) = stripFiller (dropSeparators prev t) := by
  induction t generalizing prev with
  | nil => rfl
  | cons l rest ih =>
    by_cases hrest : rest = []
    · subst hrest
      rw [dropSeparators_singleton]
      by_cases hl : l = Config.filler
      · subst hl
        rfl
      · rw [stripFiller_cons_of_ne_filler [] hl, stripFiller_nil, dropSeparators_singleton]
    · rw [stripFiller_cons_of_ne_nil l hrest]
      by_cases hsep : isSeparator prev l rest.head? = true
      · rw [dropSeparators_cons_separator hsep,
          dropSeparators_cons_separator ((isSeparator_stripFiller _ _ _).trans hsep), ih]
      · rw [dropSeparators_cons_other hsep, dropSeparators_cons_other (by rwa [isSeparator_stripFiller]), ih,
          stripFiller_cons_of_ne_nil l (dropSeparators_ne_nil _ hrest)]

/-- Pairing keeps the first letter first. -/
theorem head?_pairLetters (t : List Letter) : (pairLetters t).head? = t.head? := by
  cases t using pairLetters.fun_cases with
  | case1 => rfl
  | case2 a => rw [pairLetters]; rfl
  | case3 a rest => rw [pairLetters, if_pos rfl]; rfl
  | case4 a b rest hb => rw [pairLetters, if_neg hb]; rfl

theorem pairLetters_cons_ne_nil (a : Letter) (rest : List Letter) : pairLetters (a :: rest) ≠ [] := by
  intro hnil
  cases hnil ▸ head?_pairLetters (a :: rest)

/-- The X that pairing puts between two equal letters is one that step 2 drops. -/
theorem isSeparator_pairLetters {a : Letter} (rest : List Letter) (h : a ≠ Config.filler) :
    isSeparator (some a) Config.filler (stripFiller (pairLetters (a :: rest))).head? = true := by
  rw [isSeparator_stripFiller, head?_pairLetters, isSeparator_iff]
  exact ⟨rfl, a, h, rfl, rfl⟩

/-- On a text without X the removals take back what the pairing put in (R165). -/
theorem dropSeparators_stripFiller_pairLetters (prev : Option Letter) (t : List Letter) (h : Config.filler ∉ t) :
    dropSeparators prev (stripFiller (pairLetters t)) = t := by
  induction t using pairLetters.induct generalizing prev with
  | case1 => rw [pairLetters]; rfl
  | case2 a =>
    have ha : a ≠ Config.filler := Ne.symm (List.ne_of_not_mem_cons h)
    rw [pairLetters]
    rw [stripFiller_cons_of_ne_filler _ ha]
    exact dropSeparators_singleton prev a
  | case3 a rest ih =>
    have ha : a ≠ Config.filler := Ne.symm (List.ne_of_not_mem_cons h)
    have hrest := List.not_mem_of_not_mem_cons h
    rw [pairLetters, if_pos rfl, stripFiller_cons_of_ne_filler _ ha, dropSeparators_cons_of_ne_filler prev _ ha,
      stripFiller_cons_of_ne_nil, dropSeparators_cons_separator (isSeparator_pairLetters rest ha), ih _ hrest]
    exact pairLetters_cons_ne_nil a rest
  | case4 a b rest hb ih =>
    have ha : a ≠ Config.filler := Ne.symm (List.ne_of_not_mem_cons h)
    have hrest := List.not_mem_of_not_mem_cons h
    have hb' : b ≠ Config.filler := Ne.symm (List.ne_of_not_mem_cons hrest)
    rw [pairLetters, if_neg hb, stripFiller_cons_of_ne_filler _ ha, dropSeparators_cons_of_ne_filler prev _ ha,
      stripFiller_cons_of_ne_filler _ hb', dropSeparators_cons_of_ne_filler _ _ hb',
      ih _ (List.not_mem_of_not_mem_cons hrest)]

end Sys2Proof.Machine
end

section
/-! PROOF. Unit TX: the text commands (R152 to R165). -/

namespace Sys2Proof.Machine

open Reference

/-! ## `LBUF` written and the command ended -/

section
variable (s : State) (ls : List Letter)

theorem frame_setLetters : Frame [] rcBits s ((s.setLbuf ls).finish .ok) :=
  (frame_setLbuf s ls).trans (frame_finish _ .ok)

theorem setLetters_rc : ((s.setLbuf ls).finish .ok).rc = 0 := finish_rc _ .ok

theorem frame_cleaned (mj : Bool) : Frame [] rcBits s (s.cleaned mj) :=
  (frame_setLbuf s _).trans ((frame_setIbuf _ []).trans (frame_finish _ .ok))

theorem cleaned_rc (mj : Bool) : (s.cleaned mj).rc = 0 := finish_rc _ .ok

theorem cleaned_flag (mj : Bool) (f : FaultBit) : (s.cleaned mj).flag f = s.flag f := finish_flag _ .ok f

theorem cleaned_lbuf (mj : Bool) : (s.cleaned mj).lbuf = cleanText mj s.ibuf := (rfl)

theorem cleaned_caps (mj : Bool) : (s.cleaned mj).caps = s.caps := (rfl)

end

/-! ## The two ends of `PAIRX` -/

/-- R160's frame where the output is too long: `RC` and `F_LOVF` (bit 12). -/
theorem frame_lettersOverflow (s : State) : Frame [] (rcBits ||| 0x1000) s ((s.raise .lovf).finish .lovf) := by
  have hraise : Frame [] (rcBits ||| 0x1000) s (s.raise .lovf) :=
    (frame_raise s .lovf).weaken (fun _ h => h) (by decide)
  have hfinish : Frame [] (rcBits ||| 0x1000) (s.raise .lovf) ((s.raise .lovf).finish .lovf) :=
    (frame_finish _ .lovf).weaken (fun _ h => h) (by decide)
  exact hraise.trans hfinish

/-- Only the end in which the output fits answers `RC_OK`. -/
theorem exec_pairx_lbuf_of_rc {s t : State} (ht : exec .pairx s = .next t) (hrc : t.rc = 0) :
    t.lbuf = pairLetters s.lbuf := by
  rcases Nat.lt_or_ge s.caps.lcap (pairLetters s.lbuf).length with hlen | hlen
  · cases (exec_pairx_overflows s hlen).symm.trans ht
    rw [finish_rc] at hrc
    cases hrc
  · cases (exec_pairx_fits s hlen).symm.trans ht
    rfl

/-- The letters of one `CLEAN` leave room for their pairing (R4, R160). -/
theorem pairLetters_cleanText_fits {s : State} (h : s.Inv) :
    (pairLetters (cleanText false s.ibuf)).length ≤ s.caps.lcap := by
  obtain ⟨-, -, hroom⟩ := (capacities_wf_iff s.caps).mp h.caps
  calc (pairLetters (cleanText false s.ibuf)).length
      _ ≤ 2 * (cleanText false s.ibuf).length := pairLetters_length _
      _ ≤ 2 * s.caps.icap := Nat.mul_le_mul_left 2 ((cleanText_length false s.ibuf).trans h.bytes)
      _ ≤ s.caps.lcap := hroom

/-! ## Obligations -/

/-- Settles O16. -/
theorem tclrEmptiesBothBuffers : Obligations.TclrEmptiesBothBuffers :=
  ⟨decode_encode .tclr, fun s => ⟨_, rfl, rfl, rfl, rfl, finish_rc _ .ok,
    (frame_setIbuf s []).trans (frame_setLetters _ [])⟩⟩

/-- Settles O17. -/
theorem cleanKeepsLettersInOrder : Obligations.CleanKeepsLettersInOrder :=
  ⟨decode_encode .clean, fun s => ⟨_, rfl, map_byteOf_cleanText s.ibuf, rfl, rfl, cleaned_rc s false,
    frame_cleaned s false⟩⟩

/-- Settles O18. -/
theorem cleanJMergesJIntoI : Obligations.CleanJMergesJIntoI :=
  ⟨decode_encode .cleanJ, fun s => ⟨_, _, rfl, rfl, cleanText_true s.ibuf, letterJ_notMem_cleanText s.ibuf, rfl, rfl,
    cleaned_rc s true, frame_cleaned s true⟩⟩

/-- Settles O19: the padded text is even, which an even capacity has room for and a second pad keeps. -/
theorem padePadsToEven : Obligations.PadePadsToEven := by
  refine ⟨decode_encode .pade, fun s => ⟨_, rfl, padToEven_odd, padToEven_even, padToEven_length_even s.lbuf,
    fun hwf hle => ?_, rfl, rfl, setLetters_rc s _, frame_setLetters s _, _, rfl, ?_⟩⟩
  · obtain ⟨-, heven, -⟩ := (capacities_wf_iff s.caps).mp hwf
    exact padToEven_length_le heven hle
  · exact padToEven_even (padToEven_length_even s.lbuf)

/-- Settles O20: the loop's output is the recursion's, so both have the same length. -/
theorem pairxRunsTheScan : Obligations.PairxRunsTheScan := by
  refine ⟨decode_encode .pairx, fun s => ?_⟩
  rw [pairx_eq_pairLetters]
  exact ⟨fun hlen => ⟨_, exec_pairx_fits s hlen, rfl, rfl, rfl, setLetters_rc s _, frame_setLetters s _⟩,
    fun hlen => ⟨_, exec_pairx_overflows s hlen, finish_rc _ .lovf, by simp, frame_lettersOverflow s, rfl, rfl, rfl⟩⟩

/-- Settles O21: `RC_OK` means that `LBUF` holds the pairing. -/
theorem pairxPairsDiffer : Obligations.PairxPairsDiffer := by
  intro s t ht hrc
  rw [exec_pairx_lbuf_of_rc ht hrc]
  exact ⟨pairLetters_length_even s.lbuf, pairLetters_length s.lbuf, sublist_pairLetters s.lbuf,
    pairedUp_pairLetters s.lbuf⟩

/-- Settles O22: the cleaned text has at most `ICAP` letters. -/
theorem pairxFitsAfterClean : Obligations.PairxFitsAfterClean := by
  intro s hinv
  have hpair := exec_pairx_fits (s.cleaned false) (pairLetters_cleanText_fits hinv)
  refine ⟨_, _, rfl, hpair, setLetters_rc _ _, ?_, (pairx_eq_pairLetters _).symm⟩
  rw [finish_flag, setLbuf_flag, cleaned_flag]

/-- Settles O23. -/
theorem stripxDropsOneTrailingFiller : Obligations.StripxDropsOneTrailingFiller := by
  refine ⟨decode_encode .stripx, fun s => ⟨_, rfl, (dropTrailing_eq_stripFiller s.lbuf).symm, ?_, rfl, rfl,
    setLetters_rc s _, frame_setLetters s _⟩⟩
  intro u hu
  show stripFiller s.lbuf = u
  rw [hu, stripFiller_append_filler]

/-- Settles O24: each step of the pseudocode is a function of the model. -/
theorem unsepRunsBothSteps : Obligations.UnsepRunsBothSteps := by
  refine ⟨decode_encode .unsep, fun s => ⟨_, rfl, ?_, rfl, rfl, setLetters_rc s _, frame_setLetters s _⟩⟩
  rw [dropTrailing_eq_stripFiller, dropAt_eq_dropSeparators]
  rfl

/-- Settles O25. -/
theorem unsepStepOrderIrrelevant : Obligations.UnsepStepOrderIrrelevant := by
  refine fun s => ⟨_, rfl, ?_⟩
  rw [dropTrailing_eq_stripFiller, dropAt_eq_dropSeparators]
  exact dropSeparators_stripFiller none s.lbuf

/-- Settles O26: at most half of `LCAP` leaves room for the pairing, and the removals undo it. -/
theorem pairxThenUnsepRestores : Obligations.PairxThenUnsepRestores := by
  intro s hfiller hroom
  have hpair := exec_pairx_fits s ((pairLetters_length s.lbuf).trans hroom)
  exact ⟨_, _, hpair, rfl, dropSeparators_stripFiller_pairLetters none s.lbuf hfiller⟩

end Sys2Proof.Machine
end

section
/-! PROOF. Unit TX: the ports `TXIN`, `TXOUT`, `DGOUT` (R151, R157, R170, R171). -/

namespace Sys2Proof.Machine

/-! ## What each port leaves -/

/-- A pop of letters leaves the rest of the engine alone. -/
theorem frame_pop (s : State) (rest : List Letter) (w : Word) : Frame [] 0 s ((s.setLbuf rest).deliver w) :=
  (frame_setLbuf s rest).trans (frame_deliver _ w)

/-- An empty pop sets `F_OUNF` (bit 11) and leaves the rest of the engine alone. -/
theorem frame_emptyPop (s : State) : Frame [] 0x800 s ((s.raise .ounf).deliver emptyPop) :=
  (frame_raise s .ounf).trans (frame_deliver _ emptyPop)

theorem emptyPop_flag (s : State) : ((s.raise .ounf).deliver emptyPop).flag .ounf = true := by simp

theorem txinByte_eq_setWidth (w : Word) : txinByte w = w.setWidth 8 := (BitVec.setWidth_eq_extractLsb' (by decide)).symm

/-! ## The values of `TXOUT` (R170) -/

/-- `OFMT` is `CTRL` mod 4 (R28). -/
theorem outputFormat_eq_iff (ctrl : Word) (k : BitVec 2) : outputFormat ctrl = k ↔ ctrl.toNat % 4 = k.toNat := by
  rw [← BitVec.toNat_inj, outputFormat, BitVec.extractLsb'_toNat, Nat.shiftRight_zero]

theorem formatLetter_index (l : Letter) : (formatLetter 0 l).toNat = l.val := by
  rw [formatLetter, if_pos rfl, BitVec.toNat_ofNat]
  omega

theorem formatLetter_upper (l : Letter) : (formatLetter 1 l).toNat = 0x41 + l.val := by
  rw [formatLetter, if_neg (by decide), if_pos rfl, BitVec.toNat_ofNat]
  omega

theorem formatLetter_lower (l : Letter) : (formatLetter 2 l).toNat = 0x61 + l.val := by
  rw [formatLetter, if_neg (by decide), if_neg (by decide), if_pos rfl, BitVec.toNat_ofNat]
  omega

/-! ## The values of `DGOUT` (R157, R171) -/

theorem formatDigraph_toNat (l1 l2 : Letter) : (formatDigraph l1 l2).toNat = 256 * l1.val + l2.val := by
  have h1 := l1.isLt
  have h2 := l2.isLt
  have hor : l1.val <<< 8 ||| l2.val = 256 * l1.val + l2.val := by
    rw [← Nat.shiftLeft_add_eq_or_of_lt (by omega : l2.val < 2 ^ 8), Nat.shiftLeft_eq, Nat.mul_comm]
  rw [formatDigraph, BitVec.toNat_or, BitVec.toNat_shiftLeft, BitVec.toNat_ofNat, BitVec.toNat_ofNat,
    Nat.mod_eq_of_lt (by omega : l1.val < 2 ^ 32), Nat.mod_eq_of_lt (by omega : l2.val < 2 ^ 32),
    Nat.mod_eq_of_lt (by rw [Nat.shiftLeft_eq]; omega), hor]

theorem formatDigraph_first (l1 l2 : Letter) : ((formatDigraph l1 l2).extractLsb' 8 5).toNat = l1.val := by
  rw [BitVec.extractLsb'_toNat, formatDigraph_toNat, Nat.shiftRight_eq_div_pow]
  omega

theorem formatDigraph_second (l1 l2 : Letter) : ((formatDigraph l1 l2).extractLsb' 0 5).toNat = l2.val := by
  rw [BitVec.extractLsb'_toNat, formatDigraph_toNat, Nat.shiftRight_zero]
  omega

/-- No letter, in the lower or the upper field, reaches a bit outside bits 12:8 and 4:0. -/
theorem formatDigraph_outside (l1 l2 : Letter) : formatDigraph l1 l2 &&& ~~~0x1F1F#32 = 0 := by
  have hupper : ∀ l : Letter, (BitVec.ofNat 32 l.val <<< 8) &&& ~~~0x1F1F#32 = 0 := by decide
  have hlower : ∀ l : Letter, BitVec.ofNat 32 l.val &&& ~~~0x1F1F#32 = 0 := by decide
  rw [formatDigraph, BitVec.and_or_distrib_right, hupper, hlower, BitVec.or_self]

/-- The word of digraph number `k` of a text (R157). -/
def digraphWord (t : List Letter) (k : Nat) : Word :=
  BitVec.ofNat 32 (256 * (t.getD (2 * k) 0).val + (t.getD (2 * k + 1) 0).val)

/-- The first digraph is what a read of `DGOUT` returns. -/
theorem digraphWord_zero (l1 l2 : Letter) (ls : List Letter) : digraphWord (l1 :: l2 :: ls) 0 = formatDigraph l1 l2 := by
  have hfits : 256 * l1.val + l2.val < 2 ^ 32 := by omega
  rw [← BitVec.toNat_inj, formatDigraph_toNat]
  exact Nat.mod_eq_of_lt hfits

/-- The first digraphs of a text are the one a read returns, and then those of the text it leaves. -/
theorem map_digraphWord_range_succ (l1 l2 : Letter) (ls : List Letter) (n : Nat) :
    (List.range (n + 1)).map (digraphWord (l1 :: l2 :: ls)) =
      formatDigraph l1 l2 :: (List.range n).map (digraphWord ls) := by
  rw [List.range_succ_eq_map, List.map_cons, List.map_map, digraphWord_zero]
  rfl

/-- The step that reads `DGOUT`, where there is a pair to read. -/
theorem step_readDgout (s : State) (l1 l2 : Letter) (ls : List Letter) (es : List Event)
    (hl : s.lbuf = l1 :: l2 :: ls) (hp : s.pending = .access (.read 0x48) :: es) :
    ∃ t, step s = .next t ∧ t.returned = s.returned ++ [formatDigraph l1 l2] ∧ t.lbuf = ls ∧ t.status = s.status ∧
      t.pending = es := by
  have hstep : step s = exec .dgout (s.setPending es) :=
    (step_event s _ es hp).trans (transact_instr _ .dgout _ (decode_encode .dgout))
  exact ⟨_, hstep.trans (exec_dgout_pop (s.setPending es) l1 l2 ls hl), rfl, rfl, rfl, rfl⟩

/-! ## Obligations -/

/-- Settles O27. -/
theorem txinAppendsLowByte : Obligations.TxinAppendsLowByte := by
  refine ⟨fun w => decode_encode (.txin w), fun s w => ⟨fun hroom => ?_, fun hfull => ?_⟩⟩
  · rw [← txinByte_eq_setWidth]
    exact ⟨_, exec_txin_room s w hroom, rfl, rfl, rfl, frame_setIbuf s _⟩
  · exact ⟨_, exec_txin_full s w hfull, by simp, frame_raise s .iovf, rfl, rfl, rfl⟩

/-- Settles O28: the value by the format in `CTRL`. -/
theorem txoutPopsOneLetter : Obligations.TxoutPopsOneLetter := by
  refine ⟨decode_encode .txout, fun s l rest hl _ => ?_, fun s hl => ?_⟩
  · refine ⟨_, _, exec_txout_pop s l rest hl, rfl, rfl, rfl, frame_pop s rest _, fun h => ?_, fun h => ?_, fun h => ?_⟩
    · rw [(outputFormat_eq_iff s.ctrl 0).mpr h, formatLetter_index]
    · rw [(outputFormat_eq_iff s.ctrl 1).mpr h, formatLetter_upper]
    · rw [(outputFormat_eq_iff s.ctrl 2).mpr h, formatLetter_lower]
  · exact ⟨_, exec_txout_empty s hl, rfl, emptyPop_flag s, hl, rfl, frame_emptyPop s⟩

/-- Settles O55. -/
theorem txoutPopsUnderReservedFormat : Obligations.TxoutPopsUnderReservedFormat :=
  fun s l rest hl _ => ⟨_, _, exec_txout_pop s l rest hl, rfl, rfl, rfl, frame_pop s rest _⟩

/-- Settles O29. -/
theorem dgoutPopsOneDigraph : Obligations.DgoutPopsOneDigraph := by
  refine ⟨decode_encode .dgout, fun s l1 l2 rest hl => ?_, fun s hlen => ?_⟩
  · exact ⟨_, _, exec_dgout_pop s l1 l2 rest hl, rfl, rfl, rfl, formatDigraph_first l1 l2, formatDigraph_second l1 l2,
      formatDigraph_outside l1 l2, frame_pop s rest _⟩
  · exact ⟨_, exec_dgout_short s hlen, rfl, emptyPop_flag s, rfl, rfl, frame_emptyPop s⟩

/-- Settles O30, by induction on the number of reads: the first one delivers digraph 0, and the others those of the
text it leaves. -/
theorem digraphsComeOutInOrder : Obligations.DigraphsComeOutInOrder := by
  intro n
  induction n with
  | zero =>
    intro s rest _ hp
    exact ⟨s, rfl, (List.append_nil _).symm, rfl, rfl, hp⟩
  | succ n ih =>
    intro s rest hlen hp
    rcases short_or_pair s.lbuf with hshort | ⟨l1, l2, ls, hl⟩
    · omega
    · obtain ⟨t, hstep, hreturned, hlbuf, hstatus, hpending⟩ := step_readDgout s l1 l2 ls _ hl hp
      have hls : 2 * n ≤ t.lbuf.length := by
        rw [hl, List.length_cons, List.length_cons] at hlen
        rw [hlbuf]
        omega
      obtain ⟨u, hrun, hreturned', hlbuf', hstatus', hpending'⟩ := ih t rest hls hpending
      refine ⟨u, (run_next n s t hstep).trans hrun, ?_, ?_, hstatus'.trans hstatus, hpending'⟩
      · rw [hreturned', hreturned, hlbuf, List.append_assoc, hl]
        exact congrArg (s.returned ++ ·) (map_digraphWord_range_succ l1 l2 ls n).symm
      · rw [hlbuf', hlbuf, hl]
        rfl

end Sys2Proof.Machine
end

section
/-! PROOF. The control group: `NOP` and `CLRF` (R190, R191). -/

namespace Sys2Proof.Machine

/-! ## The end of `CLRF` -/

/-- Between them the two steps of R191 write 0 over every bit that R27 names: the masks that keep the other bits meet
in the complement of `statusNamed`. -/
theorem setResultCode_ok_clearFaultBits (w : Word) :
    setResultCode .ok (clearFaultBits w) = w &&& ~~~statusNamed := by
  have hcode : ResultCode.ok.code.setWidth 32 = 0#32 := by decide
  have hmasks : 0xFFFFE0FF#32 &&& 0xFFFFFFF0#32 = ~~~statusNamed := by decide
  rw [setResultCode, clearFaultBits, hcode, BitVec.or_zero, BitVec.and_assoc, hmasks]

/-- R191's frame: `RC` and the five fault bits. -/
theorem frame_clearFaults_finish (s : State) (rc : ResultCode) :
    Frame [] (rcBits ||| faultBits) s (s.clearFaults.finish rc) := by
  have hclear : Frame [] (rcBits ||| faultBits) s s.clearFaults :=
    (frame_clearFaults s).weaken (fun _ h => h) (by decide)
  have hfinish : Frame [] (rcBits ||| faultBits) s.clearFaults (s.clearFaults.finish rc) :=
    (frame_finish _ rc).weaken (fun _ h => h) (by decide)
  exact hclear.trans hfinish

theorem clearFaults_finish_faultFree (s : State) (rc : ResultCode) : (s.clearFaults.finish rc).faultFree :=
  fun f => (finish_flag _ rc f).trans (clearFaults_flag s f)

/-! ## Obligations -/

/-- Settles O31. -/
theorem nopWritesOnlyTheResultCode : Obligations.NopWritesOnlyTheResultCode :=
  ⟨decode_encode .nop, fun s => ⟨_, rfl, finish_rc s .ok, frame_finish s .ok, rfl, rfl, rfl⟩⟩

/-- Settles O32: of `STATUS` only the bits R27 does not name are left. -/
theorem clrfClearsAllFaultBits : Obligations.ClrfClearsAllFaultBits :=
  ⟨decode_encode .clrf, fun s => ⟨_, rfl, clearFaults_finish_faultFree s .ok, finish_rc _ .ok,
    (setResultCode_ok_clearFaultBits s.status).trans, frame_clearFaults_finish s .ok, rfl, rfl, rfl⟩⟩

end Sys2Proof.Machine
end

section
/-! PROOF. The client contracts: key recovery of the Hill cipher (R206). -/

namespace Sys2Proof.Machine

open Reference

/-- A right inverse of the plaintext matrix takes the ciphertext matrix back to the key: `(K * P) * P^-1 = K` (R206). -/
theorem product_product_right_inverse {k p n : Matrix} (hk : isReduced k) (hpn : product p n = identity) :
    product (product k p) n = k :=
  calc product (product k p) n = product k (product p n) := product_assoc k p n
    _ = product k identity := by rw [hpn]
    _ = k := product_identity hk

/-! ## Obligations -/

/-- Settles O14: `MINV` leaves a right inverse of the plaintext matrix (R136). -/
theorem minvRecoversHillKey : Obligations.MinvRecoversHillKey := by
  intro s k hunit hk
  obtain ⟨t, hexec, -, hright, -⟩ := minvIsTheTwoSidedInverse s hunit
  exact ⟨t, hexec, product_product_right_inverse hk hright⟩

end Sys2Proof.Machine
end

section
/-! PROOF. What a transaction does to `STATUS`: the result code (R221) and the sticky fault bits (R222, R224, R227). -/

namespace Sys2Proof.Machine

/-! ## How a transaction can leave `STATUS` -/

/-- How a transaction can leave the fault bits of `STATUS`, before it writes a result code if it is a command. -/
inductive FaultEffect (a : Access) (v : Word) : Word → Prop
  /-- no fault -/
  | kept : FaultEffect a v v
  /-- one fault -/
  | raised (f : FaultBit) : FaultEffect a v (setFaultBit f v)
  /-- `CLRF` -/
  | cleared (ha : a = encode .clrf) : FaultEffect a v (clearFaultBits v)

/-- How a transaction can leave `STATUS`. -/
inductive StatusEnd (a : Access) (v : Word) : Word → Prop
  /-- a write to `CMD`, which ends with a result code (R221) -/
  | command {w : Word} (rc : ResultCode) (ha : ∃ d, a = .write 0x00 d) (hf : FaultEffect a v w) :
      StatusEnd a v (setResultCode rc w)
  /-- any other transaction, which writes none -/
  | other {w : Word} (ha : ∀ d, a ≠ .write 0x00 d) (hf : FaultEffect a v w) : StatusEnd a v w

section
variable {a : Access} {v w : Word}

/-- No fault and no `CLRF` touches `RC`. -/
theorem FaultEffect.rcField_eq (h : FaultEffect a v w) : rcField w = rcField v := by
  cases h with
  | kept => rfl
  | raised f => exact rc_setFaultBit f v
  | cleared => exact rc_clearFaultBits v

/-- Only `CLRF` clears a fault bit. -/
theorem FaultEffect.sticky (h : FaultEffect a v w) (ha : a ≠ encode .clrf) (f : FaultBit)
    (hf : faultField f v = true) : faultField f w = true := by
  cases h with
  | kept => exact hf
  | raised g => rw [fault_setFaultBit, hf, Bool.true_or]
  | cleared hclrf => exact absurd hclrf ha

/-- Two bits that are newly set are both the one that was raised. -/
theorem FaultEffect.newlySet_unique (h : FaultEffect a v w) (f g : FaultBit) (hf : faultField f v = false)
    (hg : faultField g v = false) (hf' : faultField f w = true) (hg' : faultField g w = true) : f = g := by
  cases h with
  | kept => simp [hf] at hf'
  | raised x =>
    rw [fault_setFaultBit, hf, Bool.false_or, decide_eq_true_iff] at hf'
    rw [fault_setFaultBit, hg, Bool.false_or, decide_eq_true_iff] at hg'
    exact hf'.symm.trans hg'
  | cleared => simp at hf'

/-- A write to `CMD` leaves one of the five codes in `RC`, and any other transaction leaves `RC` alone. -/
theorem StatusEnd.resultCode (h : StatusEnd a v w) : ((∀ d, a ≠ .write 0x00 d) → rcField w = rcField v) ∧
    (∀ d, a = .write 0x00 d → (rcField w).toNat ≤ 4) := by
  cases h with
  | command rc ha _ =>
    obtain ⟨d, rfl⟩ := ha
    rw [rc_setResultCode]
    exact ⟨fun h => absurd rfl (h d), fun _ _ => code_le rc⟩
  | other ha hf => exact ⟨fun _ => hf.rcField_eq, fun d hd => absurd hd (ha d)⟩

/-- The result code written last leaves the fault bits as the transaction left them. -/
theorem StatusEnd.exists_faultEffect (h : StatusEnd a v w) :
    ∃ u, FaultEffect a v u ∧ ∀ f, faultField f w = faultField f u := by
  cases h with
  | command rc _ hf => exact ⟨_, hf, fun f => fault_setResultCode rc f _⟩
  | other _ hf => exact ⟨_, hf, fun _ => rfl⟩

end

/-! ## Instructions -/

@[simp] theorem setInverse_status (s : State) (det dinv : Int) (n : Matrix) :
    (s.setInverse det dinv n).status = s.status := by simp [State.setInverse]

/-- The six registers of the group written and the command ended: all that `MINV` does. -/
theorem setInverse_statusEnd (s : State) (det dinv : Int) (n : Matrix) (rc : ResultCode) :
    StatusEnd (encode .minv) s.status ((s.setInverse det dinv n).finish rc).status := by
  rw [finish_status, setInverse_status]
  exact .command rc ⟨_, rfl⟩ .kept

/-- The one statement about the instructions: each command writes a result code, no port does, and each raises at most
one fault. -/
theorem exec_statusEnd (i : Instr) (s : State) :
    ∃ t, exec i s = .next t ∧ StatusEnd (encode i) s.status t.status := by
  cases i with
  | nop | gcd | mdet | tclr | clean | cleanJ | pade | stripx | unsep =>
    exact ⟨_, rfl, .command .ok ⟨_, rfl⟩ .kept⟩
  | clrf => exact ⟨_, rfl, .command .ok ⟨_, rfl⟩ (.cleared rfl)⟩
  | modinv =>
    cases h : modInverse (residue (sint32 s.opa)) with
    | none => exact ⟨_, exec_modinv_none s h, .command .noinv ⟨_, rfl⟩ .kept⟩
    | some k => exact ⟨_, exec_modinv_some s k h, .command .ok ⟨_, rfl⟩ .kept⟩
  | minv =>
    simp only [exec, execMinv]
    split
    · exact ⟨_, rfl, setInverse_statusEnd s _ _ _ .nonunit⟩
    · exact ⟨_, rfl, setInverse_statusEnd s _ _ _ .ok⟩
  | pairx =>
    rcases Nat.lt_or_ge s.caps.lcap (pairLetters s.lbuf).length with h | h
    · exact ⟨_, exec_pairx_overflows s h, .command .lovf ⟨_, rfl⟩ (.raised .lovf)⟩
    · exact ⟨_, exec_pairx_fits s h, .command .ok ⟨_, rfl⟩ .kept⟩
  | txin w =>
    have hport : ∀ d, encode (.txin w) ≠ .write 0x00 d := by simp [encode, Name.addr]
    by_cases h : s.ibuf.length = s.caps.icap
    · exact ⟨_, exec_txin_full s w h, .other hport (.raised .iovf)⟩
    · exact ⟨_, exec_txin_room s w h, .other hport .kept⟩
  | txout =>
    have hport : ∀ d, encode .txout ≠ .write 0x00 d := nofun
    cases h : s.lbuf with
    | nil => exact ⟨_, exec_txout_empty s h, .other hport (.raised .ounf)⟩
    | cons l rest => exact ⟨_, exec_txout_pop s l rest h, .other hport .kept⟩
  | dgout =>
    have hport : ∀ d, encode .dgout ≠ .write 0x00 d := nofun
    rcases short_or_pair s.lbuf with h | ⟨l1, l2, rest, h⟩
    · exact ⟨_, exec_dgout_short s h, .other hport (.raised .ounf)⟩
    · exact ⟨_, exec_dgout_pop s l1 l2 rest h, .other hport .kept⟩

/-! ## Transactions that are no instruction -/

/-- A word written to `CMD` is a command or an illegal command, never a plain access. -/
theorem ne_command_of_notAnInstruction (a : Access) (h : decode a = .reject .notAnInstruction) (d : Word) :
    a ≠ .write 0x00 d := by
  rintro rfl
  exact decodeCommand_reject d _ h rfl

theorem badAccess_faultEffect (a : Access) (s : State) : FaultEffect a s.status (badAccess a s).status := by
  cases a with
  | write | read => exact .raised .acc

/-- `STATUS` is no register the host may store into (R21). -/
theorem storeRegister_faultEffect {a : Access} (r : Reg) (w : Word) (s : State) (hr : r.writable = true) :
    FaultEffect a s.status (storeRegister r w s).status := by
  have hstatus : r ≠ .status := by rintro rfl; cases hr
  cases hlegal : legalValue r w with
  | true =>
    rw [storeRegister_legal r w s hlegal, set_status, if_neg hstatus]
    exact .kept
  | false =>
    rw [storeRegister_illegal r w s hlegal]
    exact .raised .acc

theorem plainAccess_faultEffect (n : Name) (a : Access) (s : State) (h : a.check = .target n) :
    FaultEffect a s.status (plainAccess n a s).status := by
  obtain ⟨-, hdir⟩ := (check_target_iff a n).mp h
  cases a with
  | write x w =>
    cases n with
    | reg r => exact storeRegister_faultEffect r w s hdir
    | cmd | txin | txout | dgout | ilen | llen | dgcnt => exact .raised .acc
  | read x =>
    cases n with
    | reg | ilen | llen | dgcnt => exact .kept
    | cmd | txin | txout | dgout => exact .raised .acc

/-! ## Transactions -/

/-- Everything a transaction can do to `STATUS`. -/
theorem transact_statusEnd (a : Access) (s t : State) (h : transact a s = .next t) :
    StatusEnd a s.status t.status := by
  rcases transact_cases a s t h with ⟨i, hd, hexec⟩ | ⟨w, rfl, rfl⟩ | ⟨hd, rfl⟩ | ⟨hd, n, hn, rfl⟩
  · obtain ⟨u, hu, hend⟩ := exec_statusEnd i s
    cases hu.symm.trans hexec
    rwa [eq_encode_of_decode a i hd]
  · exact .command .illcmd ⟨w, rfl⟩ (.raised .illcmd)
  · exact .other (ne_command_of_notAnInstruction a hd) (badAccess_faultEffect a s)
  · exact .other (ne_command_of_notAnInstruction a hd) (plainAccess_faultEffect n a s hn)

/-! ## Obligations -/

/-- Settles O39: the step is the transaction, and it ends `STATUS` in one of the two listed ways. -/
theorem onlyCommandsWriteTheResultCode : Obligations.OnlyCommandsWriteTheResultCode :=
  fun s t a ht => (transact_statusEnd a s t ht).resultCode

/-- Settles O40: the events with a next state are reset, an idle edge and the transactions, of which only `CLRF` clears
a bit. -/
theorem faultBitsAreSticky : Obligations.FaultBitsAreSticky := by
  intro s t e f ht hf hreset hclrf
  rcases happen_cases e s t ht with ⟨rfl, -⟩ | ⟨-, rfl⟩ | ⟨a, rfl, htransact⟩
  · exact absurd rfl hreset
  · exact hf
  · obtain ⟨u, heffect, hflags⟩ := (transact_statusEnd a s t htransact).exists_faultEffect
    have hne : a ≠ encode .clrf := by rintro rfl; exact hclrf rfl
    exact (hflags f).trans (heffect.sticky hne f hf)

/-- Settles O41: of the three fault effects only `raised` sets a bit, and it names one. -/
theorem atMostOneFaultPerTransaction : Obligations.AtMostOneFaultPerTransaction := by
  intro s t a f g ht hf hg hf' hg'
  obtain ⟨u, heffect, hflags⟩ := (transact_statusEnd a s t ht).exists_faultEffect
  exact heffect.newlySet_unique f g hf hg ((hflags f).symm.trans hf') ((hflags g).symm.trans hg')

end Sys2Proof.Machine
end

section
/-! PROOF. Reset: the state it leaves, and what commands do there (R250, R251, R253). -/

namespace Sys2Proof.Machine

/-! ## The record of returned values only grows (R258) -/

/-- An instruction completes, and what reads returned before it stays recorded. -/
theorem exec_returned_prefix (i : Instr) (s : State) : ∃ t, exec i s = .next t ∧ s.returned <+: t.returned := by
  cases i with
  | nop | gcd | mdet | tclr | clean | cleanJ | pade | stripx | unsep | clrf => exact ⟨_, rfl, List.prefix_rfl⟩
  | modinv =>
    cases h : modInverse (residue (sint32 s.opa)) with
    | none => exact ⟨_, exec_modinv_none s h, List.prefix_rfl⟩
    | some k => exact ⟨_, exec_modinv_some s k h, List.prefix_rfl⟩
  | minv =>
    obtain ⟨det, dinv, n, rc, h⟩ := exec_minv_of_matrixOperand (matrixOperand s)
    exact ⟨_, h s rfl, by rw [(sameText_setInverse s det dinv n rc).returned]⟩
  | pairx =>
    rcases Nat.lt_or_ge s.caps.lcap (pairLetters s.lbuf).length with h | h
    · exact ⟨_, exec_pairx_overflows s h, List.prefix_rfl⟩
    · exact ⟨_, exec_pairx_fits s h, List.prefix_rfl⟩
  | txin w =>
    by_cases h : s.ibuf.length = s.caps.icap
    · exact ⟨_, exec_txin_full s w h, List.prefix_rfl⟩
    · exact ⟨_, exec_txin_room s w h, List.prefix_rfl⟩
  | txout =>
    cases h : s.lbuf with
    | nil => exact ⟨_, exec_txout_empty s h, List.prefix_append _ _⟩
    | cons l rest => exact ⟨_, exec_txout_pop s l rest h, List.prefix_append _ _⟩
  | dgout =>
    rcases short_or_pair s.lbuf with h | ⟨l1, l2, rest, h⟩
    · exact ⟨_, exec_dgout_short s h, List.prefix_append _ _⟩
    · exact ⟨_, exec_dgout_pop s l1 l2 rest h, List.prefix_append _ _⟩

theorem PlainEnd.returned_prefix {a : Access} {s t : State} (h : PlainEnd a s t) : s.returned <+: t.returned := by
  cases h with
  | stored r w => rw [set_returned]
  | returned | refusedRead => exact List.prefix_append _ _
  | refusedWrite | illegal => exact List.prefix_rfl

theorem transact_returned_prefix (a : Access) (s t : State) (h : transact a s = .next t) :
    s.returned <+: t.returned := by
  rcases transact_ends a s t h with ⟨i, -, hexec⟩ | hplain
  · obtain ⟨u, hu, hprefix⟩ := exec_returned_prefix i s
    cases hu.symm.trans hexec
    exact hprefix
  · exact hplain.returned_prefix

/-! ## Every event but a broken hold -/

/-- An event other than a broken hold has a next state, with the same capacities and events to come, and the record of
returned values at most longer. -/
theorem happen_completes (e : Event) (s : State) (he : e ≠ .holdBroken) :
    ∃ t, happen e s = .next t ∧ t.caps = s.caps ∧ t.pending = s.pending ∧ s.returned <+: t.returned := by
  cases e with
  | access a =>
    obtain ⟨t, ht, hcaps, hpending⟩ := transact_completes a s
    exact ⟨t, ht, hcaps, hpending, transact_returned_prefix a s t ht⟩
  | reset => exact ⟨_, rfl, rfl, rfl, List.prefix_rfl⟩
  | idle => exact ⟨s, rfl, rfl, rfl, List.prefix_rfl⟩
  | holdBroken => exact absurd rfl he

/-! ## The edge with `rst = 1` -/

theorem event_of_rst (before : Option Edge) (e : Edge) (h : e.rst = true) : e.event before = .reset :=
  have ⟨_, hreset, _⟩ := transactionsOccurAtReadyEdges before e
  hreset.mpr h

theorem step_issue_of_rst (s : State) (before : Option Edge) (e : Edge) (h : e.rst = true) :
    step (s.issue (e.event before)) = .next s.resetEdge := by
  rw [event_of_rst before e h, step_issue, happen_reset]

/-! ## The reset state -/

theorem resetWith_get (c : Capacities) (r : Reg) : (State.resetWith c).get r = 0 := by cases r <;> rfl

theorem resetWith_inv (c : Capacities) (h : c.wf = true) : (State.resetWith c).Inv where
  caps := h
  statusNamed := BitVec.zero_and
  resultCode := (by decide : (rcField 0).toNat ≤ 4)
  format := Nat.zero_le _
  result := Nat.zero_le _
  residues r _ := by rw [resetWith_get]; exact Nat.zero_le _
  group := .inr ⟨(by decide : Nat.gcd 0 26 ≠ 1), rfl, rfl, rfl, rfl, rfl⟩
  bytes := Nat.zero_le _
  letters := Nat.zero_le _

/-- A command that ends in `RC_OK` writes to the reset state the result code it holds. -/
theorem resetWith_finish_ok (c : Capacities) : (State.resetWith c).finish .ok = State.resetWith c :=
  congrArg (fun w => { State.resetWith c with status := w }) (by decide : setResultCode .ok 0 = 0)

theorem resetWith_clearFaults (c : Capacities) : (State.resetWith c).clearFaults = State.resetWith c :=
  congrArg (fun w => { State.resetWith c with status := w }) (by decide : clearFaultBits 0 = 0)

/-! ## The instructions on the reset state (R253) -/

/-- The text functions make nothing out of an empty buffer, and there is no fault to clear. -/
theorem exec_resetWith_unchanged (c : Capacities) :
    ∀ i ∈ [Instr.tclr, .clean, .cleanJ, .pade, .pairx, .stripx, .unsep, .nop, .clrf],
      exec i (State.resetWith c) = .next (State.resetWith c) := by
  have hok : ∀ i, exec i (State.resetWith c) = .next ((State.resetWith c).finish .ok) →
      exec i (State.resetWith c) = .next (State.resetWith c) := by
    rw [resetWith_finish_ok]
    exact fun _ h => h
  have hclrf : exec .clrf (State.resetWith c) = .next ((State.resetWith c).finish .ok) := by
    rw [exec, execClrf, resetWith_clearFaults]
  simp only [List.forall_mem_cons]
  exact ⟨hok _ rfl, hok _ rfl, hok _ rfl, hok _ rfl, hok _ (exec_pairx_fits _ (Nat.zero_le _)), hok _ rfl, hok _ rfl,
    hok _ rfl, hok _ hclrf, nofun⟩

theorem exec_gcd_resetWith (c : Capacities) :
    ∃ t, exec .gcd (State.resetWith c) = .next t ∧ t.res = 0 ∧ t.status = 0 :=
  ⟨_, rfl, (by decide : wordOf (gcdInt (sint32 0) (sint32 0)) = 0), (by decide : setResultCode .ok 0 = 0)⟩

/-- 0 has no inverse mod 26. -/
theorem exec_modinv_resetWith (c : Capacities) :
    ∃ t, exec .modinv (State.resetWith c) = .next t ∧ t.res = 0 ∧ t.status = 1 :=
  have hnone : modInverse (residue (sint32 0)) = none := by decide
  ⟨_, exec_modinv_none _ hnone, setResult_res _ 0 .noinv, (by decide : setResultCode .noinv 0 = 1)⟩

theorem determinant_resetWith (c : Capacities) : Reference.determinant (State.resetWith c) = 0 := Int.sub_self _

theorem exec_mdet_resetWith (c : Capacities) :
    ∃ t, exec .mdet (State.resetWith c) = .next t ∧ t.res = 0 ∧ t.status = 0 := by
  refine ⟨_, rfl, ?_, (by decide : setResultCode .ok 0 = 0)⟩
  rw [setResult_res, det26_matrixOperand, determinant_resetWith]
  exact wordOf_zero

/-- The determinant 0 is no unit. -/
theorem exec_minv_resetWith (c : Capacities) :
    ∃ t, exec .minv (State.resetWith c) = .next t ∧ t.det = 0 ∧ t.status = 2 := by
  have hnonunit : Int.gcd (Reference.determinant (State.resetWith c)) 26 ≠ 1 := by
    rw [determinant_resetWith]
    decide
  refine ⟨_, exec_minv_of_nonunit _ hnonunit, ?_, ?_⟩
  · rw [determinant_resetWith, finish_det]
    simp only [State.setInverse, set_det, reduceCtorEq, ↓reduceIte]
    exact wordOf_zero
  · rw [finish_status, setInverse_status]
    exact (by decide : setResultCode .nonunit 0 = 2)

/-- A pop of the empty `LBUF`. -/
theorem exec_pop_resetWith (c : Capacities) : ∀ i ∈ [Instr.txout, .dgout],
    ∃ t, exec i (State.resetWith c) = .next t ∧ t.returned = [0x80000000] ∧ t.status = 0x800 := by
  have hstatus : setFaultBit .ounf 0 = 0x800 := by decide
  simp only [List.forall_mem_cons]
  exact ⟨⟨_, exec_txout_empty _ rfl, rfl, hstatus⟩, ⟨_, exec_dgout_short _ Nat.zero_lt_two, rfl, hstatus⟩, nofun⟩

/-! ## Obligations -/

/-- Settles O50, by induction on the events before the reset edge: each one completes and leaves the capacities and the
rest of the list, and the edge itself keeps nothing else. -/
theorem resetAbandonsWhatWentBefore : Obligations.ResetAbandonsWhatWentBefore := by
  intro es
  induction es with
  | nil =>
    intro s _ hp
    have hstep : step s = .next (s.setPending []).resetEdge := step_event s .reset [] hp
    exact ⟨_, [], run_next 0 s _ hstep, by rw [List.append_nil]; rfl⟩
  | cons e es ih =>
    intro s hes hp
    obtain ⟨he, hes⟩ := not_or.mp (List.mem_cons.not.mp hes)
    obtain ⟨t, ht, hcaps, hpending, vs, hreturned⟩ := happen_completes e (s.setPending (es ++ [.reset])) (.symm he)
    have hstep : step s = .next t := (step_event s e _ hp).trans ht
    obtain ⟨u, ws, hrun, hu⟩ := ih t hes hpending
    refine ⟨u, vs ++ ws, (run_next _ s t hstep).trans hrun, ?_⟩
    rw [hu, hcaps, ← hreturned, List.append_assoc]
    rfl

/-- Settles O47. -/
theorem resetMeetsInv : Obligations.ResetMeetsInv :=
  ⟨resetWith_inv, resetWith_inv Capacities.suggested (by decide)⟩

/-- Settles O48. -/
theorem resetEdgeClearsEveryRegister : Obligations.ResetEdgeClearsEveryRegister :=
  fun s before e h => ⟨_, step_issue_of_rst s before e h, resetEdge_get s, rfl, rfl, rfl⟩

/-- Settles O49. -/
theorem commandsOnTheResetState : Obligations.CommandsOnTheResetState :=
  fun c => ⟨exec_gcd_resetWith c, exec_modinv_resetWith c, exec_mdet_resetWith c, exec_minv_resetWith c,
    exec_resetWith_unchanged c, exec_pop_resetWith c⟩

/-- Settles O54. -/
theorem noTransactionOccursAtReset : Obligations.NoTransactionOccursAtReset := by
  intro s before e h
  refine ⟨fun a => ?_, _, step_issue_of_rst s before e h, rfl, rfl⟩
  rw [event_of_rst before e h]
  nofun

end Sys2Proof.Machine
end
